-- ==== Sys2Proof/Config.lean ====
section
/-! DEFINITION. What is fixed for the engine (00_scope.md R8), and the values the spec leaves open
(00_scope.md R10, 93_implementation_defined.md I3): an `opaque` constant has no value in the model. -/

namespace Sys2Proof.Config

/-- First header byte of every frame (R8, R74). -/
def header0 : BitVec 8 := 0x52

/-- Second header byte of every frame (R8, R74). -/
def header1 : BitVec 8 := 0x42

/-- The reflected CRC polynomial (R8, R140). -/
def crcPoly : BitVec 16 := 0xA001

/-- The CRC seed (R8, R141). -/
def crcSeed : BitVec 16 := 0xFFFF

/-- Wire opcode Read (R8, R79). -/
def opRead : BitVec 8 := 0x01

/-- Wire opcode Write (R8, R79). -/
def opWrite : BitVec 8 := 0x02

/-- FB_CAP, the frame buffer's size in bytes: 0xFFFF + 4 (R8, R52). -/
def fbCap : Nat := 65539

/-- ARG_CAP, the argument buffer's size in bytes: 0xFFFF - 5 (R8, R53). -/
def argCap : Nat := 65530

/-- What a read of ID returns (R23, R110). -/
def idValue : BitVec 32 := 0x5242A001

/-- The free draws of frame-buffer bytes not written since reset, one for each read, numbered by the
counter `State.draws` (93_implementation_defined.md I3). Log 4: nothing constrains a draw. -/
opaque freeByte : Nat → BitVec 8

/-- The platform's choice behind BASE (R10, R51). Log 14. -/
opaque basePage : Nat

/-- BASE, the host address of the register window: any multiple of 0x80 (R10, R51). -/
def base : Nat := 0x80 * basePage

/-- POLL_PERIOD, the time between poll ticks; no rule reads it (R10, R237). Log 14. -/
opaque pollPeriod : Nat

end Sys2Proof.Config
end

