-- ==== Sys2Proof/Word.lean ====
section
/-! DEFINITION. The words of the engine: bytes, 32-bit host words, 40-bit host-operation words
(00_scope.md R11, 30_encoding.md R70). All values are unsigned. -/

namespace Sys2Proof

/-- One byte of a frame, of a buffer or of a wire stream. -/
abbrev Byte := BitVec 8

/-- A register value as the host reads and writes it (20_memory.md R57). -/
abbrev Word := BitVec 32

/-- A host-operation word: W at bit 39, OFF at bits 38:32, DATA at bits 31:0 (30_encoding.md R70). -/
abbrev HostWord := BitVec 40

/-- An operation as opcode_table.json spells it: a 40-bit host-operation word (format HOSTOP40), or
the 8-bit opcode byte of a request frame (format WIRE8, 30_encoding.md R79). -/
inductive OpWord
  | host (w : HostWord)
  | wire (b : Byte)
  deriving DecidableEq, Repr

end Sys2Proof
end

