-- ==== Sys2Proof/Syntax.lean ====
section
/-! DEFINITION. The instructions: one constructor for each row of spec/opcode_table.json, with every
bit of its word that the row does not fix as an operand. -/

namespace Sys2Proof

/-- The 35 rows of opcode_table.json: 16 register reads, 10 register writes, 7 commands and the two
wire opcodes. `data` is DATA, bits 31:0 of the host-operation word; in a read word it is 0 and not
decoded (30_encoding.md R70). `ignored` is a command word's bits 31:8 (30_encoding.md R72). -/
inductive Instr
  /-- RD_ID (R110). -/
  | rdId (data : Word)
  /-- RD_CTRL (R111). -/
  | rdCtrl (data : Word)
  /-- RD_STATUS (R112). -/
  | rdStatus (data : Word)
  /-- RD_OPCODE (R113). -/
  | rdOpcode (data : Word)
  /-- RD_ADDRESS (R114). -/
  | rdAddress (data : Word)
  /-- RD_ARG_COUNT (R115). -/
  | rdArgCount (data : Word)
  /-- RD_BUF_PTR (R116). -/
  | rdBufPtr (data : Word)
  /-- RD_BUF_DATA (R117). -/
  | rdBufData (data : Word)
  /-- RD_BUF_LEN (R118). -/
  | rdBufLen (data : Word)
  /-- RD_CRC (R119). -/
  | rdCrc (data : Word)
  /-- RD_TIMEOUT_POLLS (R120). -/
  | rdTimeoutPolls (data : Word)
  /-- RD_IDLE_POLLS (R121). -/
  | rdIdlePolls (data : Word)
  /-- RD_FRAME_LEN (R122). -/
  | rdFrameLen (data : Word)
  /-- RD_RX_OPCODE (R123). -/
  | rdRxOpcode (data : Word)
  /-- RD_RX_ADDR (R124). -/
  | rdRxAddr (data : Word)
  /-- RD_STATUS_INDEX (R125). -/
  | rdStatusIndex (data : Word)
  /-- WR_CTRL (R126). -/
  | wrCtrl (data : Word)
  /-- WR_OPCODE (R127). -/
  | wrOpcode (data : Word)
  /-- WR_ADDRESS (R128). -/
  | wrAddress (data : Word)
  /-- WR_ARG_DATA (R152). -/
  | wrArgData (data : Word)
  /-- WR_BUF_PTR (R129). -/
  | wrBufPtr (data : Word)
  /-- WR_BUF_DATA (R130). -/
  | wrBufData (data : Word)
  /-- WR_BUF_LEN (R131). -/
  | wrBufLen (data : Word)
  /-- WR_CRC_DATA (R144). -/
  | wrCrcData (data : Word)
  /-- WR_TIMEOUT_POLLS (R132). -/
  | wrTimeoutPolls (data : Word)
  /-- WR_STATUS_INDEX (R133). -/
  | wrStatusIndex (data : Word)
  /-- CRC_INIT (R143). -/
  | crcInit (ignored : BitVec 24)
  /-- CRC_BUF (R145). -/
  | crcBuf (ignored : BitVec 24)
  /-- ARG_CLEAR (R151). -/
  | argClear (ignored : BitVec 24)
  /-- ENCODE (R153). -/
  | encode (ignored : BitVec 24)
  /-- DECODE (R155). -/
  | decode (ignored : BitVec 24)
  /-- TRANSACT (R172). -/
  | transact (ignored : BitVec 24)
  /-- FLUSH (R183). -/
  | flush (ignored : BitVec 24)
  /-- WIRE_READ, request frame byte 4 = 0x01 (R79). -/
  | wireRead
  /-- WIRE_WRITE, request frame byte 4 = 0x02 (R79). -/
  | wireWrite
  deriving DecidableEq, Repr

end Sys2Proof
end

