-- ==== Sys2Proof/WellFormed.lean ====
section
/-! DEFINITION. Which instructions are well formed: the DATA field of a read word is 0
(30_encoding.md R70, opcode_table.json "0 in a read word"). Every other operand may have any value. -/

namespace Sys2Proof

/-- R70's check of a read word. -/
def readDataIsZero (data : Word) : Bool := data == 0

/-- The well-formed instructions. -/
def Instr.wf : Instr → Bool
  | .rdId data => readDataIsZero data
  | .rdCtrl data => readDataIsZero data
  | .rdStatus data => readDataIsZero data
  | .rdOpcode data => readDataIsZero data
  | .rdAddress data => readDataIsZero data
  | .rdArgCount data => readDataIsZero data
  | .rdBufPtr data => readDataIsZero data
  | .rdBufData data => readDataIsZero data
  | .rdBufLen data => readDataIsZero data
  | .rdCrc data => readDataIsZero data
  | .rdTimeoutPolls data => readDataIsZero data
  | .rdIdlePolls data => readDataIsZero data
  | .rdFrameLen data => readDataIsZero data
  | .rdRxOpcode data => readDataIsZero data
  | .rdRxAddr data => readDataIsZero data
  | .rdStatusIndex data => readDataIsZero data
  | .wrCtrl _ => true
  | .wrOpcode _ => true
  | .wrAddress _ => true
  | .wrArgData _ => true
  | .wrBufPtr _ => true
  | .wrBufData _ => true
  | .wrBufLen _ => true
  | .wrCrcData _ => true
  | .wrTimeoutPolls _ => true
  | .wrStatusIndex _ => true
  | .crcInit _ => true
  | .crcBuf _ => true
  | .argClear _ => true
  | .encode _ => true
  | .decode _ => true
  | .transact _ => true
  | .flush _ => true
  | .wireRead => true
  | .wireWrite => true

end Sys2Proof
end

