-- ==== Sys2Proof/Decode.lean ====
section
/-! DEFINITION. The decoder, total on every word and rejecting by name what is no row of
opcode_table.json, and the encoder, written from the same encoding (30_encoding.md R70-R73, R79,
10_state.md R22). -/

namespace Sys2Proof

/-- Why a word is no row of the table. The machine gives each the effect its rule states
(Machine/Access.lean). -/
inductive Reject
  /-- OFF is no multiple of 4 (R71, R100). -/
  | misaligned (write : Bool)
  /-- OFF is a reserved slot, 0x4C to 0x7C (R83, R101). -/
  | reservedOffset (write : Bool)
  /-- A write to a read-only register (R102). -/
  | readOnlyWrite
  /-- A read of CMD, ARG_DATA or CRC_DATA (R103). -/
  | writeOnlyRead
  /-- A CMD write of code 0x00 or 0x08 to 0xFF (R82, R109). -/
  | illegalCommand
  /-- A frame byte 4 that is neither 0x01 nor 0x02 (R79), transmitted as it is (R172; log 11). -/
  | wireOpcode (b : Byte)
  deriving DecidableEq, Repr

/-- The high byte `W<<7 | OFF`, bits 39:32 of a host-operation word (R70). -/
def headByte (w : HostWord) : BitVec 8 := w.extractLsb' 32 8

/-- W, bit 39 (R70): true for a write. -/
def fieldW (w : HostWord) : Bool := (headByte w).getLsbD 7

/-- OFF, bits 38:32 (R70). -/
def fieldOff (w : HostWord) : BitVec 7 := (headByte w).extractLsb' 0 7

/-- DATA, bits 31:0 (R70). -/
def fieldData (w : HostWord) : Word := w.extractLsb' 0 32

/-- The command code, DATA[7:0] (R72). -/
def fieldCode (data : Word) : BitVec 8 := data.extractLsb' 0 8

/-- DATA[31:8] of a command word, ignored by every command (R72). -/
def fieldIgnored (data : Word) : BitVec 24 := data.extractLsb' 8 24

/-- A host-operation word from W, OFF and DATA (R70). -/
def mkHostWord (w : Bool) (off : BitVec 7) (data : Word) : HostWord :=
  (BitVec.ofBool w ++ off) ++ data

/-- The register reads by offset (R22, opcode_table.json rows RD_*). -/
def decodeRead (off : BitVec 7) (data : Word) : Except Reject Instr :=
  match off.toNat with
  | 0x00 => .ok (.rdId data)
  | 0x04 => .ok (.rdCtrl data)
  | 0x08 => .ok (.rdStatus data)
  | 0x0C => .error .writeOnlyRead
  | 0x10 => .ok (.rdOpcode data)
  | 0x14 => .ok (.rdAddress data)
  | 0x18 => .ok (.rdArgCount data)
  | 0x1C => .error .writeOnlyRead
  | 0x20 => .ok (.rdBufPtr data)
  | 0x24 => .ok (.rdBufData data)
  | 0x28 => .ok (.rdBufLen data)
  | 0x2C => .ok (.rdCrc data)
  | 0x30 => .error .writeOnlyRead
  | 0x34 => .ok (.rdTimeoutPolls data)
  | 0x38 => .ok (.rdIdlePolls data)
  | 0x3C => .ok (.rdFrameLen data)
  | 0x40 => .ok (.rdRxOpcode data)
  | 0x44 => .ok (.rdRxAddr data)
  | 0x48 => .ok (.rdStatusIndex data)
  | _ => .error (.reservedOffset false)

/-- The commands by code (R73, R109). -/
def decodeCommand (data : Word) : Except Reject Instr :=
  match (fieldCode data).toNat with
  | 0x01 => .ok (.crcInit (fieldIgnored data))
  | 0x02 => .ok (.crcBuf (fieldIgnored data))
  | 0x03 => .ok (.argClear (fieldIgnored data))
  | 0x04 => .ok (.encode (fieldIgnored data))
  | 0x05 => .ok (.decode (fieldIgnored data))
  | 0x06 => .ok (.transact (fieldIgnored data))
  | 0x07 => .ok (.flush (fieldIgnored data))
  | _ => .error .illegalCommand

/-- The register writes by offset (R22, opcode_table.json rows WR_* and the command rows). -/
def decodeWrite (off : BitVec 7) (data : Word) : Except Reject Instr :=
  match off.toNat with
  | 0x00 => .error .readOnlyWrite
  | 0x04 => .ok (.wrCtrl data)
  | 0x08 => .error .readOnlyWrite
  | 0x0C => decodeCommand data
  | 0x10 => .ok (.wrOpcode data)
  | 0x14 => .ok (.wrAddress data)
  | 0x18 => .error .readOnlyWrite
  | 0x1C => .ok (.wrArgData data)
  | 0x20 => .ok (.wrBufPtr data)
  | 0x24 => .ok (.wrBufData data)
  | 0x28 => .ok (.wrBufLen data)
  | 0x2C => .error .readOnlyWrite
  | 0x30 => .ok (.wrCrcData data)
  | 0x34 => .ok (.wrTimeoutPolls data)
  | 0x38 => .error .readOnlyWrite
  | 0x3C => .error .readOnlyWrite
  | 0x40 => .error .readOnlyWrite
  | 0x44 => .error .readOnlyWrite
  | 0x48 => .ok (.wrStatusIndex data)
  | _ => .error (.reservedOffset true)

/-- R100 first, then R101 to R103 and the rows of the table. -/
def decodeAccess (write : Bool) (off : BitVec 7) (data : Word) : Except Reject Instr :=
  if off.toNat % 4 ≠ 0 then .error (.misaligned write)
  else if write then decodeWrite off data
  else decodeRead off data

/-- The 40-bit host-operation word (R70). -/
def decodeHost (w : HostWord) : Except Reject Instr :=
  decodeAccess (fieldW w) (fieldOff w) (fieldData w)

/-- The wire opcode byte (R79). -/
def decodeWire (b : Byte) : Except Reject Instr :=
  if b = Config.opRead then .ok .wireRead
  else if b = Config.opWrite then .ok .wireWrite
  else .error (.wireOpcode b)

/-- The decoder: total, and every word that is no row of the table is rejected by name. -/
def decode : OpWord → Except Reject Instr
  | .host w => decodeHost w
  | .wire b => decodeWire b

/-- A read word (W = 0). -/
def readWord (off : BitVec 7) (data : Word) : OpWord := .host (mkHostWord false off data)

/-- A write word (W = 1). -/
def writeWord (off : BitVec 7) (data : Word) : OpWord := .host (mkHostWord true off data)

/-- A CMD write (W = 1, OFF = 0x0C) of a code, with DATA[31:8] (R72). -/
def commandWord (code : BitVec 8) (ignored : BitVec 24) : OpWord :=
  writeWord 0x0C (ignored ++ code)

/-- The encoder: each row's match bits with the operand's bits filled in. -/
def encode : Instr → OpWord
  | .rdId data => readWord 0x00 data
  | .rdCtrl data => readWord 0x04 data
  | .rdStatus data => readWord 0x08 data
  | .rdOpcode data => readWord 0x10 data
  | .rdAddress data => readWord 0x14 data
  | .rdArgCount data => readWord 0x18 data
  | .rdBufPtr data => readWord 0x20 data
  | .rdBufData data => readWord 0x24 data
  | .rdBufLen data => readWord 0x28 data
  | .rdCrc data => readWord 0x2C data
  | .rdTimeoutPolls data => readWord 0x34 data
  | .rdIdlePolls data => readWord 0x38 data
  | .rdFrameLen data => readWord 0x3C data
  | .rdRxOpcode data => readWord 0x40 data
  | .rdRxAddr data => readWord 0x44 data
  | .rdStatusIndex data => readWord 0x48 data
  | .wrCtrl data => writeWord 0x04 data
  | .wrOpcode data => writeWord 0x10 data
  | .wrAddress data => writeWord 0x14 data
  | .wrArgData data => writeWord 0x1C data
  | .wrBufPtr data => writeWord 0x20 data
  | .wrBufData data => writeWord 0x24 data
  | .wrBufLen data => writeWord 0x28 data
  | .wrCrcData data => writeWord 0x30 data
  | .wrTimeoutPolls data => writeWord 0x34 data
  | .wrStatusIndex data => writeWord 0x48 data
  | .crcInit ignored => commandWord 0x01 ignored
  | .crcBuf ignored => commandWord 0x02 ignored
  | .argClear ignored => commandWord 0x03 ignored
  | .encode ignored => commandWord 0x04 ignored
  | .decode ignored => commandWord 0x05 ignored
  | .transact ignored => commandWord 0x06 ignored
  | .flush ignored => commandWord 0x07 ignored
  | .wireRead => .wire Config.opRead
  | .wireWrite => .wire Config.opWrite

/-- The operation word whose bits are `w`, numbered as opcode_table.json numbers them, `nbits` of
them given by the table: a row of 8 bits is a WIRE8 row, a longer one a HOSTOP40 word (log 2). -/
def tableWord (nbits w : Nat) : OpWord :=
  if nbits ≤ 8 then .wire (BitVec.ofNat 8 (w % 2 ^ nbits))
  else .host (BitVec.ofNat 40 (w % 2 ^ nbits))

/-- The instruction the decoder reads from a table row's word. -/
def decodeTableWord (nbits w : Nat) : Option Instr := (decode (tableWord nbits w)).toOption

end Sys2Proof
end

