-- ==== Sys2Proof/Machine/State.lean ====
section
/-! DEFINITION. The machine's state as plain data (10_state.md), the steps its agents take, the
reasons a step can stop, and the state after reset (10_state.md R48). -/

namespace Sys2Proof.Machine

/-- The frame buffer's content: the bytes written since reset, as (index, byte) pairs with strictly
rising indices. An index that is not listed reads as a free draw (93_implementation_defined.md I3). -/
abbrev Memory := List Host.Cell

/-- The engine's sequencer phase (R44). -/
inductive Phase
  | idle
  | tx
  | rx
  deriving DecidableEq, Repr

/-- The values of STATUS.ERR_CODE (60_exceptions.md R200). 0xB to 0xF are never produced, so they
have no name (log 13). -/
inductive ErrCode
  | noError
  | invalidHeader
  | checksumMismatch
  | truncated
  | lengthInvalid
  | timeout
  | ioFailure
  | deviceError
  | malformed
  | badOpcode
  | illegalCmd
  deriving DecidableEq, Repr

/-- CTRL (R24). -/
structure Ctrl where
  statusEn : Bool
  ackMask  : BitVec 3
  deriving DecidableEq, Repr

/-- STATUS, field by field (R27). -/
structure Status where
  busy        : Bool
  done        : Bool
  err         : Bool
  valid       : Bool
  fields      : Bool
  accessFault : Bool
  rejected    : Bool
  errCode     : ErrCode
  devCode     : Byte
  deriving DecidableEq, Repr

/-- The transport's queues (R46). The head of a list is the oldest byte. -/
structure Transport where
  rx   : List Byte
  txq  : List Byte
  wire : List Byte
  deriving DecidableEq, Repr

/-- An access a bus master makes: direction, host address, width in bytes and written value
(40_host_interface.md R100). -/
structure HostAccess where
  write : Bool
  addr  : Nat
  width : Nat
  data  : Word
  deriving DecidableEq, Repr

/-- One step of one agent (00_scope.md R7, 20_memory.md R60). -/
inductive Event
  /-- A host operation (R70), or the acceptance of a request's opcode byte, frame byte 4
  (R79, R174; log 6). -/
  | op (w : OpWord)
  /-- A host access of any width and alignment (R100). -/
  | access (a : HostAccess)
  /-- ARRIVE (R171). -/
  | arrive (bs : List Byte)
  /-- DRAIN of one byte (R171). -/
  | drain
  /-- The transport accepts a byte: TX_ACCEPT (R174). -/
  | txAccept
  /-- POLL_TICK (R175, R176). -/
  | pollTick
  /-- IO_FAIL; `after` is the transport's own state after it (R182; log 7). -/
  | ioFail (after : Transport)
  /-- Reset (R220). -/
  | reset
  deriving DecidableEq, Repr

/-- The whole machine. -/
structure State where
  ctrl         : Ctrl
  status       : Status
  opcode       : BitVec 8
  address      : BitVec 16
  /-- ARG[0 .. ARG_COUNT); ARG_COUNT is its length (R38; log 5). -/
  arg          : List Byte
  bufPtr       : BitVec 17
  bufLen       : BitVec 17
  fb           : Memory
  crc          : BitVec 16
  timeoutPolls : BitVec 16
  idlePolls    : BitVec 16
  frameLen     : BitVec 17
  rxOpcode     : BitVec 8
  rxAddr       : BitVec 16
  statusIndex  : BitVec 16
  phase        : Phase
  txLen        : Nat
  txIdx        : Nat
  transport    : Transport
  /-- The value the last host read returned (the host's side of the bus; log 3). -/
  rdata        : Word
  /-- The steps the agents take next, the first one first (log 1). -/
  inputs       : List Event
  /-- How many free draws have been made (log 4). -/
  draws        : Nat
  deriving DecidableEq, Repr

/-- Why the machine stops. The spec's errors stop nothing (60_exceptions.md R201). -/
inductive Fault
  /-- A frame-buffer access at an index of 65539 or more, which does not exist (20_memory.md R52).
  Raised by every operation on FB; no state that meets the invariant raises it. Safe (log 10). -/
  | frameBufferIndex (i : Nat)
  deriving DecidableEq, Repr

/-- Why a step has no meaning. -/
inductive Refusal
  /-- An instruction without a meaning, refused by its arm of `exec`: none is left. Safe. -/
  | notModelled (mnemonic : String)
  deriving DecidableEq, Repr

/-- The machine right after reset (10_state.md R48, 70_reset_and_hazards.md R220). FB lists nothing.
The transport starts empty (log 12), no step is scheduled (log 2), and the model's own fields
`rdata` and `draws` start at 0 (logs 3 and 4). -/
def State.reset : State where
  ctrl := { statusEn := true, ackMask := 0b110 }
  status :=
    { busy := false, done := false, err := false, valid := false, fields := false
      accessFault := false, rejected := false, errCode := .noError, devCode := 0 }
  opcode := 0
  address := 0
  arg := []
  bufPtr := 0
  bufLen := 0
  fb := []
  crc := 0xFFFF
  timeoutPolls := 10
  idlePolls := 0
  frameLen := 0
  rxOpcode := 0
  rxAddr := 0
  statusIndex := 4
  phase := .idle
  txLen := 0
  txIdx := 0
  transport := { rx := [], txq := [], wire := [] }
  rdata := 0
  inputs := []
  draws := 0

end Sys2Proof.Machine
end

