-- ==== Sys2Proof/Machine/Operands.lean ====
section
/-! DEFINITION. The operand forms: the fields a register write takes from DATA, the 32-bit values
registers read as (10_state.md R22, 30_encoding.md R84), and little-endian assembly
(00_scope.md R14, 20_memory.md R56, R57). -/

namespace Sys2Proof.Machine

/-- `lo8(v) = v[7:0]` (R14). -/
def lo8 (v : BitVec 16) : Byte := v.extractLsb' 0 8

/-- `hi8(v) = v[15:8]` (R14). -/
def hi8 (v : BitVec 16) : Byte := v.extractLsb' 8 8

/-- `le16(lo, hi)` (R14). -/
def le16 (lo hi : Byte) : BitVec 16 := hi ++ lo

/-- `data[7:0]` (R127, R130, R144, R152). -/
def data8 (data : Word) : Byte := data.extractLsb' 0 8

/-- `data[15:0]` (R128, R132, R133). -/
def data16 (data : Word) : BitVec 16 := data.extractLsb' 0 16

/-- `data[16:0]` (R129, R131). -/
def data17 (data : Word) : BitVec 17 := data.extractLsb' 0 17

/-- `min(v, 65539)`, the clamp of a BUF_PTR or BUF_LEN write (R129, R131). -/
def clampToFb (v : BitVec 17) : BitVec 17 :=
  if v.toNat ≤ Config.fbCap then v else BitVec.ofNat 17 Config.fbCap

/-- The fields a CTRL write stores: data[0] and data[10:8] (R24, R126). -/
def ctrlOfData (data : Word) : Ctrl where
  statusEn := data.getLsbD 0
  ackMask := data.extractLsb' 8 3

/-- What a CTRL read returns: ACK_MASK at bits 10:8, STATUS_EN at bit 0 (R24, R111). -/
def ctrlWord (c : Ctrl) : Word := (c.ackMask ++ 0#7 ++ BitVec.ofBool c.statusEn).setWidth 32

/-- ARG_COUNT (R38). -/
def argCount (s : State) : Nat := s.arg.length

/-- The total size L + 4 of a frame whose length bytes are `lo` and `hi`, in 17 bits (R76, R177). -/
def expectedSize (lo hi : Byte) : BitVec 17 := (le16 lo hi).setWidth 17 + 4

/-- The four bytes of a register value on a byte-addressed bus, lowest address first (R57). -/
def busLanes (v : Word) : List Byte :=
  [v.extractLsb' 0 8, v.extractLsb' 8 8, v.extractLsb' 16 8, v.extractLsb' 24 8]

/-- Address bits [6:0], all the engine decodes of a host address (R51). -/
def offsetOf (addr : Nat) : BitVec 7 := BitVec.ofNat 7 addr

/-- The host-operation word of an aligned 32-bit access; a read's DATA is 0 (R70). -/
def wordOfAccess (a : HostAccess) : OpWord :=
  if a.write then writeWord (offsetOf a.addr) a.data else readWord (offsetOf a.addr) 0

end Sys2Proof.Machine
end

