-- ==== Sys2Proof/Machine/Flags.lean ====
section
/-! DEFINITION. STATUS, the only condition flags (10_state.md R49): the codes of ERR_CODE, the
register's layout and the two sticky indicators. -/

namespace Sys2Proof.Machine

/-- ERR_CODE's number, STATUS bits 11:8 (60_exceptions.md R200). -/
def errCodeBits : ErrCode → BitVec 4
  | .noError => 0x0
  | .invalidHeader => 0x1
  | .checksumMismatch => 0x2
  | .truncated => 0x3
  | .lengthInvalid => 0x4
  | .timeout => 0x5
  | .ioFailure => 0x6
  | .deviceError => 0x7
  | .malformed => 0x8
  | .badOpcode => 0x9
  | .illegalCmd => 0xA

/-- STATUS bits 6:0: REJECTED, ACCESS_FAULT, FIELDS, VALID, ERR, DONE, BUSY from bit 6 down (R27). -/
def statusFlagBits (st : Status) : BitVec 7 :=
  BitVec.ofBool st.rejected ++ BitVec.ofBool st.accessFault ++ BitVec.ofBool st.fields ++
    BitVec.ofBool st.valid ++ BitVec.ofBool st.err ++ BitVec.ofBool st.done ++
    BitVec.ofBool st.busy

/-- What a STATUS read returns, laid out as R27's table: bits 31:24, 15:12 and 7 read 0. -/
def statusWord (st : Status) : Word :=
  0#8 ++ st.devCode ++ 0#4 ++ errCodeBits st.errCode ++ 0#1 ++ statusFlagBits st

/-- `R[STATUS].ACCESS_FAULT <- 1` (R33). -/
def raiseAccessFault (s : State) : State :=
  { s with status := { s.status with accessFault := true } }

/-- `R[STATUS].REJECTED <- 1` (R34). -/
def raiseRejected (s : State) : State :=
  { s with status := { s.status with rejected := true } }

end Sys2Proof.Machine
end

