-- ==== Sys2Proof/Machine/Ops.lean ====
section
/-! DEFINITION. The shared operations: the frame buffer, command acceptance and completion (the
engine's counterpart of taking an exception and returning from one, 60_exceptions.md R204, R205),
the bus, the transport clears and reset. -/

namespace Sys2Proof.Machine

/-! ### The frame buffer (20_memory.md R52) -/

/-- The canonical form: strictly rising indices, each below FB_CAP. Every written byte is listed,
since an unlisted one reads as no fixed value (log 4). -/
abbrev Memory.wf (m : Memory) : Prop :=
  (m.map Prod.fst).Pairwise (· < ·) ∧ ∀ c ∈ m, c.1 < Config.fbCap

/-- The byte listed at an index, if any. -/
def Memory.get : Memory → Nat → Option Byte
  | [], _ => none
  | (a, b) :: m, i => if a = i then some b else Memory.get m i

/-- Lists a byte at an index, in its place. -/
def Memory.set : Memory → Nat → Byte → Memory
  | [], i, v => [(i, v)]
  | (a, b) :: m, i, v =>
    if i < a then (i, v) :: (a, b) :: m
    else if i = a then (i, v) :: m
    else (a, b) :: Memory.set m i v

/-- A free draw (93_implementation_defined.md I3): the value, and the state that has made it. -/
def drawByte (s : State) : Byte × State :=
  (Config.freeByte s.draws, { s with draws := s.draws + 1 })

/-- A read of `FB[i]`: the byte listed there, or a free draw if none was written since reset. -/
def fbRead (i : Nat) (s : State) : Except Fault (Byte × State) :=
  if i < Config.fbCap then
    match Memory.get s.fb i with
    | some b => .ok (b, s)
    | none => .ok (drawByte s)
  else .error (.frameBufferIndex i)

/-- A read of `FB[i .. i+n)`, in index order. -/
def fbReadRange (i : Nat) : Nat → State → Except Fault (List Byte × State)
  | 0, s => .ok ([], s)
  | n + 1, s => do
    let (b, s) ← fbRead i s
    let (bs, s) ← fbReadRange (i + 1) n s
    .ok (b :: bs, s)

/-- `FB[i] <- b`. -/
def fbWrite (i : Nat) (b : Byte) (s : State) : Except Fault State :=
  if i < Config.fbCap then .ok { s with fb := Memory.set s.fb i b }
  else .error (.frameBufferIndex i)

/-- `FB[i + k] <- bs[k]` for each k. -/
def fbWriteRange (i : Nat) : List Byte → State → Except Fault State
  | [], s => .ok s
  | b :: bs, s => do
    let s ← fbWrite i b s
    fbWriteRange (i + 1) bs s

/-! ### Error completion and acceptance (40_host_interface.md R106, R107) -/

/-- `complete_ok()` (R107). -/
def completeOk (s : State) : State :=
  { s with
    phase := .idle
    status := { s.status with busy := false, done := true, err := false, errCode := .noError } }

/-- `complete_err(c)`, what `raise Error(c)` does (R14, R107, R201): the engine's counterpart of
taking an exception. It saves the code in ERR_CODE and changes no mode and no mask (R204). -/
def completeErr (c : ErrCode) (s : State) : State :=
  { s with
    phase := .idle
    status := { s.status with busy := false, done := true, err := true, errCode := c } }

/-- The clears of command acceptance (R106), which also end an error's reporting: the engine's
counterpart of the return (R205). -/
def accept (s : State) : State :=
  { s with
    status :=
      { s.status with
        done := false, err := false, errCode := .noError, devCode := 0, valid := false
        fields := false, accessFault := false, rejected := false } }

/-- A result of the engine as a step's outcome. -/
def toOutcome : Except Fault State → Host.Outcome State Fault Refusal
  | .ok s => .next s
  | .error f => .fault f

/-- A CMD write: rejected while BUSY (R108), otherwise accepted (R106) and dispatched to `body`. -/
def runCommand (body : State → Except Fault State) (s : State) :
    Host.Outcome State Fault Refusal :=
  if s.status.busy then .next (raiseRejected s) else toOutcome (body (accept s))

/-! ### The bus -/

/-- The value a host read returns. -/
def returnRead (v : Word) (s : State) : State := { s with rdata := v }

/-- A write to a register other than CMD: refused while BUSY (R104). -/
def lockedWrite (body : State → Except Fault State) (s : State) :
    Host.Outcome State Fault Refusal :=
  if s.status.busy then .next (raiseAccessFault s) else toOutcome (body s)

/-- A refused access (R100, R101): ACCESS_FAULT, and a read returns 0. -/
def refuseAccess (write : Bool) (s : State) : State :=
  raiseAccessFault (if write then s else returnRead 0 s)

/-! ### The transport and reset -/

/-- `clear_input()` (R13). -/
def clearInput (s : State) : State := { s with transport := { s.transport with rx := [] } }

/-- `clear_output()` (R13). -/
def clearOutput (s : State) : State := { s with transport := { s.transport with txq := [] } }

/-- Reset as a step (70_reset_and_hazards.md R220 to R222): every piece of engine state takes its
reset value and FB lists nothing; the transport is untouched, and so are the host's read value, the
schedule and the draw counter, which are not the engine's (log 3, log 1, log 4). -/
def engineReset (s : State) : State :=
  { State.reset with
    transport := s.transport, rdata := s.rdata, inputs := s.inputs, draws := s.draws }

end Sys2Proof.Machine
end

