-- ==== Sys2Proof/Machine/Checksum.lean ====
section
/-! DEFINITION. The checksum engine (41_checksum.md). -/

namespace Sys2Proof.Machine

/-- One of crc_byte's eight steps: bit 0 leaves to the right (R140). -/
def crcShift (c : BitVec 16) : BitVec 16 :=
  if c.getLsbD 0 then (c >>> 1) ^^^ Config.crcPoly else c >>> 1

/-- `n` steps of crc_byte (R140). -/
def crcShifts : Nat → BitVec 16 → BitVec 16
  | 0, c => c
  | n + 1, c => crcShifts n (crcShift c)

/-- `crc_byte(c, b)` (R140). -/
def crcByte (c : BitVec 16) (b : Byte) : BitVec 16 := crcShifts 8 (c ^^^ b.setWidth 16)

/-- `crc_seq(c, bs)` (R141). -/
def crcSeq : BitVec 16 → List Byte → BitVec 16
  | c, [] => c
  | c, b :: bs => crcSeq (crcByte c b) bs

/-- The source's `checksum(bs)`: the seed, and no final XOR (R141). -/
def checksum (bs : List Byte) : BitVec 16 := crcSeq Config.crcSeed bs

/-- CRC_INIT after acceptance (R143). -/
def crcInitBody (s : State) : Except Fault State :=
  .ok (completeOk { s with crc := Config.crcSeed })

/-- R143. -/
def execCrcInit (s : State) : Host.Outcome State Fault Refusal := runCommand crcInitBody s

/-- R144. -/
def execWrCrcData (data : Word) (s : State) : Host.Outcome State Fault Refusal :=
  lockedWrite (fun s => .ok { s with crc := crcByte s.crc (data8 data) }) s

/-- CRC_BUF after acceptance (R145). -/
def crcBufBody (s : State) : Except Fault State := do
  let (bs, s) ← fbReadRange 0 s.bufLen.toNat s
  .ok (completeOk { s with crc := checksum bs })

/-- R145. -/
def execCrcBuf (s : State) : Host.Outcome State Fault Refusal := runCommand crcBufBody s

end Sys2Proof.Machine
end

