-- ==== Sys2Proof/Machine/Codec.lean ====
section
/-! DEFINITION. The frame codec (42_frame_codec.md). -/

namespace Sys2Proof.Machine

/-- A request frame's bytes before its trailer (R150): header, length L = n + 5, opcode, address,
argument. -/
def requestBody (op : Byte) (addr : BitVec 16) (arg : List Byte) : List Byte :=
  let len := BitVec.ofNat 16 (arg.length + 5)
  [Config.header0, Config.header1, lo8 len, hi8 len, op, lo8 addr, hi8 addr] ++ arg

/-- The checksum of a request frame (R150). -/
def requestCrc (op : Byte) (addr : BitVec 16) (arg : List Byte) : BitVec 16 :=
  checksum (requestBody op addr arg)

/-- `build_request(op, addr, arg)` (R150). -/
def buildRequest (op : Byte) (addr : BitVec 16) (arg : List Byte) : List Byte :=
  requestBody op addr arg ++ [lo8 (requestCrc op addr arg), hi8 (requestCrc op addr arg)]

/-- ARG_CLEAR after acceptance (R151). -/
def argClearBody (s : State) : Except Fault State := .ok (completeOk { s with arg := [] })

/-- R151. -/
def execArgClear (s : State) : Host.Outcome State Fault Refusal := runCommand argClearBody s

/-- The ARG_DATA write while BUSY = 0 (R152): refused when ARG is full, else appended. -/
def appendArg (data : Word) (s : State) : Except Fault State :=
  if argCount s = Config.argCap then .ok (raiseAccessFault s)
  else .ok { s with arg := s.arg ++ [data8 data] }

/-- R152. -/
def execWrArgData (data : Word) (s : State) : Host.Outcome State Fault Refusal :=
  lockedWrite (appendArg data) s

/-- ENCODE once OPCODE has passed its check (R153). -/
def emitRequest (s : State) : Except Fault State := do
  let s ← fbWriteRange 0 (buildRequest s.opcode s.address s.arg) s
  let size := BitVec.ofNat 17 (argCount s + 9)
  .ok (completeOk
    { s with
      crc := requestCrc s.opcode s.address s.arg
      bufLen := size, bufPtr := 0, frameLen := size })

/-- ENCODE after acceptance (R153). -/
def encodeBody (s : State) : Except Fault State :=
  if s.opcode ≠ Config.opRead ∧ s.opcode ≠ Config.opWrite then
    .ok (completeErr .badOpcode { s with frameLen := 0 })
  else emitRequest { s with frameLen := 0 }

/-- R153. -/
def execEncode (s : State) : Host.Outcome State Fault Refusal := runCommand encodeBody s

/-- `latch_fields(L)` (R154). -/
def latchFields (L : Nat) (s : State) : Except Fault State :=
  if 5 ≤ L then do
    let (op, s) ← fbRead 4 s
    let (lo, s) ← fbRead 5 s
    let (hi, s) ← fbRead 6 s
    .ok { s with rxOpcode := op, rxAddr := le16 lo hi, status := { s.status with fields := true } }
  else .ok s

/-- The header check: whether FB[0] and FB[1] are the header's bytes (R155, R178). -/
def headerMatches (s : State) : Except Fault (Bool × State) := do
  let (h0, s) ← fbRead 0 s
  let (h1, s) ← fbRead 1 s
  .ok (h0 == Config.header0 && h1 == Config.header1, s)

/-- The checksum check: CRC takes the checksum of FB[0 .. L+2), and the trailer at L+2 and L+3 must
equal it (R77, R155, R178). -/
def trailerMatches (L : Nat) (s : State) : Except Fault (Bool × State) := do
  let (bs, s) ← fbReadRange 0 (L + 2) s
  let s := { s with crc := checksum bs }
  let (lo, s) ← fbRead (L + 2) s
  let (hi, s) ← fbRead (L + 3) s
  .ok (le16 lo hi == s.crc, s)

/-- DECODE from its checksum check on (R155). -/
def decodeTrailer (L : Nat) (s : State) : Except Fault State := do
  let (good, s) ← trailerMatches L s
  if good then
    let s ← latchFields L s
    .ok (completeOk { s with status := { s.status with valid := true } })
  else .ok (completeErr .checksumMismatch s)

/-- DECODE from its length check on, with BUF_LEN = n of at least 4 (R155). -/
def decodeLength (n : Nat) (s : State) : Except Fault State := do
  let (lo, s) ← fbRead 2 s
  let (hi, s) ← fbRead 3 s
  let L := (le16 lo hi).toNat
  let s := { s with frameLen := expectedSize lo hi }
  if L < 2 then .ok (completeErr .lengthInvalid s)
  else if n < L + 4 then .ok (completeErr .truncated s)
  else decodeTrailer L s

/-- DECODE after acceptance: the checks in R155's order (R202). -/
def decodeBody (s : State) : Except Fault State :=
  let n := s.bufLen.toNat
  let s := { s with frameLen := 0, rxOpcode := 0, rxAddr := 0 }
  if n < 2 then .ok (completeErr .truncated s)
  else do
    let (good, s) ← headerMatches s
    if !good then .ok (completeErr .invalidHeader s)
    else if n < 4 then .ok (completeErr .truncated s)
    else decodeLength n s

/-- R155. -/
def execDecode (s : State) : Host.Outcome State Fault Refusal := runCommand decodeBody s

end Sys2Proof.Machine
end

