-- ==== Sys2Proof/Machine/HostRead.lean ====
section
/-! DEFINITION. The register reads (40_host_interface.md R105, R110-R125). Each returns its value on
the bus; only BUF_DATA has another effect (20_memory.md R59). -/

namespace Sys2Proof.Machine

/-- A read without a side effect: its only effect is the value returned (40_host_interface.md
section 3). It is allowed whether BUSY is 0 or 1 (R104). -/
def readRegister (v : Word) (s : State) : Host.Outcome State Fault Refusal :=
  .next (returnRead v s)

/-- R110. -/
def execRdId (s : State) : Host.Outcome State Fault Refusal :=
  readRegister Config.idValue s

/-- R111. -/
def execRdCtrl (s : State) : Host.Outcome State Fault Refusal :=
  readRegister (ctrlWord s.ctrl) s

/-- R112. -/
def execRdStatus (s : State) : Host.Outcome State Fault Refusal :=
  readRegister (statusWord s.status) s

/-- R113. -/
def execRdOpcode (s : State) : Host.Outcome State Fault Refusal :=
  readRegister (s.opcode.setWidth 32) s

/-- R114. -/
def execRdAddress (s : State) : Host.Outcome State Fault Refusal :=
  readRegister (s.address.setWidth 32) s

/-- R115. -/
def execRdArgCount (s : State) : Host.Outcome State Fault Refusal :=
  readRegister (BitVec.ofNat 32 (argCount s)) s

/-- R116. -/
def execRdBufPtr (s : State) : Host.Outcome State Fault Refusal :=
  readRegister (s.bufPtr.setWidth 32) s

/-- The BUF_DATA read while BUSY = 0 (R117): refused at BUF_PTR = 65539, else the byte at BUF_PTR,
which then advances. -/
def readBufData (s : State) : Except Fault State :=
  if s.bufPtr = BitVec.ofNat 17 Config.fbCap then .ok (refuseAccess false s)
  else do
    let (v, s) ← fbRead s.bufPtr.toNat s
    .ok (returnRead (v.setWidth 32) { s with bufPtr := s.bufPtr + 1 })

/-- R117; while BUSY = 1 the read is refused and BUF_PTR keeps its value (R105). -/
def execRdBufData (s : State) : Host.Outcome State Fault Refusal :=
  if s.status.busy then .next (refuseAccess false s) else toOutcome (readBufData s)

/-- R118. -/
def execRdBufLen (s : State) : Host.Outcome State Fault Refusal :=
  readRegister (s.bufLen.setWidth 32) s

/-- R119. -/
def execRdCrc (s : State) : Host.Outcome State Fault Refusal :=
  readRegister (s.crc.setWidth 32) s

/-- R120. -/
def execRdTimeoutPolls (s : State) : Host.Outcome State Fault Refusal :=
  readRegister (s.timeoutPolls.setWidth 32) s

/-- R121. -/
def execRdIdlePolls (s : State) : Host.Outcome State Fault Refusal :=
  readRegister (s.idlePolls.setWidth 32) s

/-- R122. -/
def execRdFrameLen (s : State) : Host.Outcome State Fault Refusal :=
  readRegister (s.frameLen.setWidth 32) s

/-- R123. -/
def execRdRxOpcode (s : State) : Host.Outcome State Fault Refusal :=
  readRegister (s.rxOpcode.setWidth 32) s

/-- R124. -/
def execRdRxAddr (s : State) : Host.Outcome State Fault Refusal :=
  readRegister (s.rxAddr.setWidth 32) s

/-- R125. -/
def execRdStatusIndex (s : State) : Host.Outcome State Fault Refusal :=
  readRegister (s.statusIndex.setWidth 32) s

end Sys2Proof.Machine
end

