-- ==== Sys2Proof/Machine/HostWrite.lean ====
section
/-! DEFINITION. The register writes (40_host_interface.md R104, R126-R133). Each is refused while
BUSY (R104). WR_CRC_DATA is in Machine/Checksum.lean and WR_ARG_DATA in Machine/Codec.lean. -/

namespace Sys2Proof.Machine

/-- R126. -/
def execWrCtrl (data : Word) (s : State) : Host.Outcome State Fault Refusal :=
  lockedWrite (fun s => .ok { s with ctrl := ctrlOfData data }) s

/-- R127. -/
def execWrOpcode (data : Word) (s : State) : Host.Outcome State Fault Refusal :=
  lockedWrite (fun s => .ok { s with opcode := data8 data }) s

/-- R128. -/
def execWrAddress (data : Word) (s : State) : Host.Outcome State Fault Refusal :=
  lockedWrite (fun s => .ok { s with address := data16 data }) s

/-- R129. -/
def execWrBufPtr (data : Word) (s : State) : Host.Outcome State Fault Refusal :=
  lockedWrite (fun s => .ok { s with bufPtr := clampToFb (data17 data) }) s

/-- The BUF_DATA write while BUSY = 0 (R130): refused at BUF_PTR = 65539, else stored at BUF_PTR,
which then advances. BUF_LEN is not changed. -/
def writeBufData (data : Word) (s : State) : Except Fault State :=
  if s.bufPtr = BitVec.ofNat 17 Config.fbCap then .ok (raiseAccessFault s)
  else do
    let s ← fbWrite s.bufPtr.toNat (data8 data) s
    .ok { s with bufPtr := s.bufPtr + 1 }

/-- R130. -/
def execWrBufData (data : Word) (s : State) : Host.Outcome State Fault Refusal :=
  lockedWrite (writeBufData data) s

/-- R131. -/
def execWrBufLen (data : Word) (s : State) : Host.Outcome State Fault Refusal :=
  lockedWrite (fun s => .ok { s with bufLen := clampToFb (data17 data) }) s

/-- R132. -/
def execWrTimeoutPolls (data : Word) (s : State) : Host.Outcome State Fault Refusal :=
  lockedWrite (fun s => .ok { s with timeoutPolls := data16 data }) s

/-- R133. -/
def execWrStatusIndex (data : Word) (s : State) : Host.Outcome State Fault Refusal :=
  lockedWrite (fun s => .ok { s with statusIndex := data16 data }) s

end Sys2Proof.Machine
end

