-- ==== Sys2Proof/Machine/Reassembler.lean ====
section
/-! DEFINITION. The transport reassembler: TRANSACT, the engine's steps while it runs, and FLUSH
(43_reassembler.md). -/

namespace Sys2Proof.Machine

/-- `thr`, the timeout threshold (R173). -/
def thr (s : State) : Nat := max s.timeoutPolls.toNat 1

/-- `enter_rx()` (R173). -/
def enterRx (s : State) : State :=
  { s with phase := .rx, bufLen := 0, frameLen := 0, idlePolls := 0 }

/-- `t_fail(c)` (R173). -/
def tFail (c : ErrCode) (s : State) : State := completeErr c { s with bufPtr := 0 }

/-- The transport clears of a success and of FLUSH (R181, R183). -/
def clearTransport (s : State) : State := clearOutput (clearInput s)

/-- `succeed()` (R181). -/
def succeed (s : State) : State :=
  completeOk
    { clearTransport { s with status := { s.status with valid := true } } with bufPtr := 0 }

/-- What TRANSACT's acceptance sets before it enters a phase (R172). -/
def startTransact (s : State) : State :=
  { s with
    txLen := s.bufLen.toNat, txIdx := 0, idlePolls := 0, frameLen := 0, rxOpcode := 0
    rxAddr := 0, status := { s.status with busy := true } }

/-- TRANSACT after acceptance (R172); tx_len is BUF_LEN. -/
def transactBody (s : State) : Except Fault State :=
  .ok (if s.bufLen.toNat = 0 then enterRx (startTransact s) else { startTransact s with phase := .tx })

/-- R172. -/
def execTransact (s : State) : Host.Outcome State Fault Refusal := runCommand transactBody s

/-- FLUSH after acceptance (R183). -/
def flushBody (s : State) : Except Fault State := .ok (completeOk (clearTransport s))

/-- R183. -/
def execFlush (s : State) : Host.Outcome State Fault Refusal := runCommand flushBody s

/-- TX_ACCEPT (R174); not enabled in another phase (R184; log 9). -/
def txAcceptStep (s : State) : Except Fault State :=
  match s.phase with
  | .tx => do
    let (b, s) ← fbRead s.txIdx s
    let s :=
      { s with
        transport := { s.transport with txq := s.transport.txq ++ [b] }
        txIdx := s.txIdx + 1, idlePolls := 0 }
    .ok (if s.txIdx = s.txLen then enterRx s else s)
  | .idle | .rx => .ok s

/-- A poll without progress: it counts, and reaching the threshold times out (R175, R176). -/
def idlePoll (s : State) : State :=
  if thr s ≤ (s.idlePolls + 1).toNat then tFail .timeout { s with idlePolls := s.idlePolls + 1 }
  else { s with idlePolls := s.idlePolls + 1 }

/-- `status_check()` (R180). -/
def statusCheck (L : Nat) (s : State) : Except Fault State :=
  let i := s.statusIndex.toNat
  if L + 2 ≤ i then .ok (tFail .malformed s)
  else do
    let (b, s) ← fbRead i s
    if b.toNat ≤ 2 ∧ s.ctrl.ackMask.getLsbD b.toNat = true then .ok (succeed s)
    else .ok (tFail .deviceError { s with status := { s.status with devCode := b } })

/-- `finish()`, part 2: the status gate (R179). -/
def statusGate (L : Nat) (s : State) : Except Fault State :=
  if s.ctrl.statusEn then statusCheck L s else .ok (succeed s)

/-- `finish()`, part 1, from its checksum check on (R178). -/
def finishTrailer (L : Nat) (s : State) : Except Fault State := do
  let (good, s) ← trailerMatches L s
  if good then
    let s ← latchFields L s
    statusGate L s
  else .ok (tFail .checksumMismatch s)

/-- `finish()`, part 1: the checks of a complete frame in R178's order (R202). -/
def finish (s : State) : Except Fault State := do
  let L := s.frameLen.toNat - 4
  let (good, s) ← headerMatches s
  if !good then .ok (tFail .invalidHeader s)
  else if L < 2 then .ok (tFail .lengthInvalid s)
  else finishTrailer L s

/-- `rx_byte`'s second line: at the fourth byte FRAME_LEN becomes known (R177). -/
def latchFrameLen (s : State) : Except Fault State :=
  if s.bufLen = 4 then do
    let (lo, s) ← fbRead 2 s
    let (hi, s) ← fbRead 3 s
    .ok { s with frameLen := expectedSize lo hi }
  else .ok s

/-- `rx_byte(b)` (R177). -/
def rxByte (b : Byte) (s : State) : Except Fault State := do
  let s ← fbWrite s.bufLen.toNat b s
  let s ← latchFrameLen { s with bufLen := s.bufLen + 1 }
  if 4 ≤ s.bufLen.toNat ∧ s.bufLen = s.frameLen then finish s else .ok s

/-- R176's loop over T.rx, whose contents are the list: while phase = RX the head is taken and
received. -/
def rxDrain : List Byte → State → Except Fault State
  | [], s => .ok s
  | b :: rest, s =>
    match s.phase with
    | .rx => do
      let s ← rxByte b { s with transport := { s.transport with rx := rest } }
      rxDrain rest s
    | .idle | .tx => .ok s

/-- POLL_TICK (R175, R176); no effect while IDLE (R184). -/
def pollTickStep (s : State) : Except Fault State :=
  match s.phase with
  | .idle => .ok s
  | .tx => .ok (idlePoll s)
  | .rx =>
    if s.transport.rx = [] then .ok (idlePoll s)
    else rxDrain s.transport.rx { s with idlePolls := 0 }

/-- IO_FAIL (R182): `after` is the transport's own state after the failure (log 7). -/
def ioFailStep (after : Transport) (s : State) : State :=
  match s.phase with
  | .idle => { s with transport := after }
  | .tx | .rx => tFail .ioFailure { s with transport := after }

end Sys2Proof.Machine
end

