-- ==== Sys2Proof/Machine/Wire.lean ====
section
/-! DEFINITION. The two wire opcodes (30_encoding.md R74, R79): the values of frame byte 4 of a
request. They are no host operation: such a word is the engine's step in which the transport accepts
that byte (TX_ACCEPT, 43_reassembler.md R174). Log 6. With them T.ready, which is the choice of either
form of acceptance. -/

namespace Sys2Proof.Machine

/-- The byte that a read of `FB[i]` gives now: the one listed there, or the draw that comes next. -/
def byteShown (i : Nat) (s : State) : Byte := (Memory.get s.fb i).getD (Config.freeByte s.draws)

/-- Whether the transmission of frame byte 4 as `b` is enabled: phase = TX, byte 4 is the next to send
and FB[4] is `b` (R174). -/
abbrev sendsOpcode (b : Byte) (s : State) : Prop :=
  s.phase = .tx ∧ s.txIdx = 4 ∧ byteShown 4 s = b

/-- The TX_ACCEPT that takes frame byte 4 of the request, where that byte is `b`; nothing happens where
it is not enabled. FB is transmitted as it is, so `b` may be any byte (R172). -/
def transmitOpcode (b : Byte) (s : State) : Except Fault State :=
  if sendsOpcode b s then txAcceptStep s else .ok s

/-- Whether an event is the transport's choice to accept a byte now: TX_ACCEPT, or a wire word whose
transmission is enabled. -/
def Event.accepts (e : Event) (s : State) : Bool :=
  match e with
  | .txAccept => true
  | .op (.wire b) => decide (sendsOpcode b s)
  | .op (.host _) | .access _ | .arrive _ | .drain | .pollTick | .ioFail _ | .reset => false

/-- T.ready, the transport's choice at this step (R46, R174): it accepts a byte now (log 9). -/
def State.tReady (s : State) : Bool :=
  match s.inputs with
  | [] => false
  | e :: _ => e.accepts s

/-- WIRE_READ: request frame byte 4 is 0x01 (R79). -/
def execWireRead (s : State) : Host.Outcome State Fault Refusal :=
  toOutcome (transmitOpcode Config.opRead s)

/-- WIRE_WRITE: request frame byte 4 is 0x02 (R79). -/
def execWireWrite (s : State) : Host.Outcome State Fault Refusal :=
  toOutcome (transmitOpcode Config.opWrite s)

end Sys2Proof.Machine
end

