-- ==== Sys2Proof/Machine/Dispatch.lean ====
section
/-! DEFINITION. One arm for each instruction (40_host_interface.md R109, opcode_table.json). -/

namespace Sys2Proof.Machine

def exec (i : Instr) (s : State) : Host.Outcome State Fault Refusal :=
  match i with
  | .rdId _ => Sys2Proof.Machine.execRdId s
  | .rdCtrl _ => Sys2Proof.Machine.execRdCtrl s
  | .rdStatus _ => Sys2Proof.Machine.execRdStatus s
  | .rdOpcode _ => Sys2Proof.Machine.execRdOpcode s
  | .rdAddress _ => Sys2Proof.Machine.execRdAddress s
  | .rdArgCount _ => Sys2Proof.Machine.execRdArgCount s
  | .rdBufPtr _ => Sys2Proof.Machine.execRdBufPtr s
  | .rdBufData _ => Sys2Proof.Machine.execRdBufData s
  | .rdBufLen _ => Sys2Proof.Machine.execRdBufLen s
  | .rdCrc _ => Sys2Proof.Machine.execRdCrc s
  | .rdTimeoutPolls _ => Sys2Proof.Machine.execRdTimeoutPolls s
  | .rdIdlePolls _ => Sys2Proof.Machine.execRdIdlePolls s
  | .rdFrameLen _ => Sys2Proof.Machine.execRdFrameLen s
  | .rdRxOpcode _ => Sys2Proof.Machine.execRdRxOpcode s
  | .rdRxAddr _ => Sys2Proof.Machine.execRdRxAddr s
  | .rdStatusIndex _ => Sys2Proof.Machine.execRdStatusIndex s
  | .wrCtrl data => Sys2Proof.Machine.execWrCtrl data s
  | .wrOpcode data => Sys2Proof.Machine.execWrOpcode data s
  | .wrAddress data => Sys2Proof.Machine.execWrAddress data s
  | .wrArgData data => Sys2Proof.Machine.execWrArgData data s
  | .wrBufPtr data => Sys2Proof.Machine.execWrBufPtr data s
  | .wrBufData data => Sys2Proof.Machine.execWrBufData data s
  | .wrBufLen data => Sys2Proof.Machine.execWrBufLen data s
  | .wrCrcData data => Sys2Proof.Machine.execWrCrcData data s
  | .wrTimeoutPolls data => Sys2Proof.Machine.execWrTimeoutPolls data s
  | .wrStatusIndex data => Sys2Proof.Machine.execWrStatusIndex data s
  | .crcInit _ => Sys2Proof.Machine.execCrcInit s
  | .crcBuf _ => Sys2Proof.Machine.execCrcBuf s
  | .argClear _ => Sys2Proof.Machine.execArgClear s
  | .encode _ => Sys2Proof.Machine.execEncode s
  | .decode _ => Sys2Proof.Machine.execDecode s
  | .transact _ => Sys2Proof.Machine.execTransact s
  | .flush _ => Sys2Proof.Machine.execFlush s
  | .wireRead => Sys2Proof.Machine.execWireRead s
  | .wireWrite => Sys2Proof.Machine.execWireWrite s

end Sys2Proof.Machine
end

