-- ==== Sys2Proof/Machine/Access.lean ====
section
/-! DEFINITION. One step of one agent: a host access of any kind (40_host_interface.md R100-R109), a
transport or timer step (43_reassembler.md R171, R174-R182), or reset (R220). -/

namespace Sys2Proof.Machine

/-- What a word that is no row of the table does (R100-R103, R109). A wire byte that is neither opcode
is transmitted as any byte of FB is (R172, R174; log 11). -/
def rejectOp : Reject → State → Host.Outcome State Fault Refusal
  | .misaligned write, s => .next (refuseAccess write s)
  | .reservedOffset write, s => .next (refuseAccess write s)
  | .readOnlyWrite, s => .next (raiseAccessFault s)
  | .writeOnlyRead, s => .next (returnRead 0 s)
  | .illegalCommand, s => runCommand (fun s => .ok (completeErr .illegalCmd s)) s
  | .wireOpcode b, s => toOutcome (transmitOpcode b s)

/-- One operation word: the instruction it decodes to, or its rejection's effect. -/
def runOp (w : OpWord) (s : State) : Host.Outcome State Fault Refusal :=
  match decode w with
  | .ok i => exec i s
  | .error r => rejectOp r s

/-- One host access: the width check first (R100), then the aligned 32-bit access's word. -/
def runAccess (a : HostAccess) (s : State) : Host.Outcome State Fault Refusal :=
  if a.width ≠ 4 then .next (refuseAccess a.write s) else runOp (wordOfAccess a) s

/-- ARRIVE (R171). -/
def arrive (bs : List Byte) (s : State) : State :=
  { s with transport := { s.transport with rx := s.transport.rx ++ bs } }

/-- DRAIN: one byte from T.txq to the wire (R171). -/
def drain (s : State) : State :=
  match s.transport.txq with
  | [] => s
  | b :: rest =>
    { s with transport := { s.transport with txq := rest, wire := s.transport.wire ++ [b] } }

/-- One step of one agent, the schedule's head already taken. -/
def runEvent (e : Event) (s : State) : Host.Outcome State Fault Refusal :=
  match e with
  | .op w => runOp w s
  | .access a => runAccess a s
  | .arrive bs => .next (arrive bs s)
  | .drain => .next (drain s)
  | .txAccept => toOutcome (txAcceptStep s)
  | .pollTick => toOutcome (pollTickStep s)
  | .ioFail after => .next (ioFailStep after s)
  | .reset => .next (engineReset s)

/-- A step of the machine: the schedule's first agent acts; with nothing scheduled, none does and
nothing changes (60_exceptions.md R213; log 1). -/
def stepBody (s : State) : Host.Outcome State Fault Refusal :=
  match s.inputs with
  | [] => .next s
  | e :: rest => runEvent e { s with inputs := rest }

/-- A state whose next step is a given event. -/
def schedule (e : Event) (s : State) : State := { s with inputs := e :: s.inputs }

end Sys2Proof.Machine
end

