-- ==== Sys2Proof/Machine/Step.lean ====
section
/-! DEFINITION. The step function, and a table word placed as the next step. -/

namespace Sys2Proof.Machine

/-- One step of the machine (00_scope.md R7, 20_memory.md R60). -/
def step (s : State) : Host.Outcome State Fault Refusal := stepBody s

/-- `s` with a table row's word as the next operation of the host (log 2). -/
def State.withFetchWord (s : State) (nbits w : Nat) : State :=
  schedule (.op (tableWord nbits w)) s

end Sys2Proof.Machine
end

