-- ==== Sys2Proof/Machine/Listing.lean ====
section
/-! DEFINITION. The register map as the spec's table (10_state.md R22), and the host-program notation:
operations, pseudo-instructions and listings (30_encoding.md R86-R88). Each expansion is the list of
operation words a host issues. -/

namespace Sys2Proof.Machine

/-- The access column of R22. -/
inductive RegAccess
  | rw
  | ro
  | wo
  deriving DecidableEq, Repr

/-- One row of R22: offset, name, access and the implemented bits as a mask. -/
structure RegRow where
  offset : BitVec 7
  name   : String
  access : RegAccess
  bits   : Word
  deriving DecidableEq, Repr

/-- R22's table, without its reserved rows. -/
def registerMap : List RegRow :=
  [ ⟨0x00, "ID", .ro, 0xFFFFFFFF⟩, ⟨0x04, "CTRL", .rw, 0x00000701⟩,
    ⟨0x08, "STATUS", .ro, 0x00FF0F7F⟩, ⟨0x0C, "CMD", .wo, 0x000000FF⟩,
    ⟨0x10, "OPCODE", .rw, 0x000000FF⟩, ⟨0x14, "ADDRESS", .rw, 0x0000FFFF⟩,
    ⟨0x18, "ARG_COUNT", .ro, 0x0001FFFF⟩, ⟨0x1C, "ARG_DATA", .wo, 0x000000FF⟩,
    ⟨0x20, "BUF_PTR", .rw, 0x0001FFFF⟩, ⟨0x24, "BUF_DATA", .rw, 0x000000FF⟩ ] ++
  [ ⟨0x28, "BUF_LEN", .rw, 0x0001FFFF⟩, ⟨0x2C, "CRC", .ro, 0x0000FFFF⟩,
    ⟨0x30, "CRC_DATA", .wo, 0x000000FF⟩, ⟨0x34, "TIMEOUT_POLLS", .rw, 0x0000FFFF⟩,
    ⟨0x38, "IDLE_POLLS", .ro, 0x0000FFFF⟩, ⟨0x3C, "FRAME_LEN", .ro, 0x0001FFFF⟩,
    ⟨0x40, "RX_OPCODE", .ro, 0x000000FF⟩, ⟨0x44, "RX_ADDR", .ro, 0x0000FFFF⟩,
    ⟨0x48, "STATUS_INDEX", .rw, 0x0000FFFF⟩ ]

/-- `offset(REG)` (R86). -/
def offsetNamed (name : String) : Option (BitVec 7) :=
  (registerMap.find? fun r => r.name == name).map RegRow.offset

/-- `code(NAME)` (R73, R86). -/
def commandNamed : String → Option (BitVec 8)
  | "CRC_INIT" => some 0x01
  | "CRC_BUF" => some 0x02
  | "ARG_CLEAR" => some 0x03
  | "ENCODE" => some 0x04
  | "DECODE" => some 0x05
  | "TRANSACT" => some 0x06
  | "FLUSH" => some 0x07
  | _ => none

/-- `rd REG` (R86). -/
def rdLine (name : String) : Option OpWord := (offsetNamed name).map fun off => readWord off 0

/-- `wr REG, imm` (R86). -/
def wrLine (name : String) (imm : Word) : Option OpWord :=
  (offsetNamed name).map fun off => writeWord off imm

/-- `cmd NAME` (R86). -/
def cmdLine (name : String) : Option OpWord :=
  (commandNamed name).map fun code => commandWord code 0

/-- `argpush b0, ..., bk` (R87). -/
def argpush (bs : List Byte) : List OpWord := bs.map fun b => writeWord 0x1C (b.setWidth 32)

/-- `crcfeed b0, ..., bk` (R87). -/
def crcfeed (bs : List Byte) : List OpWord := bs.map fun b => writeWord 0x30 (b.setWidth 32)

/-- `bufload b0, ..., b(k-1)` (R87). -/
def bufload (bs : List Byte) : List OpWord :=
  writeWord 0x20 0 :: (bs.map fun b => writeWord 0x24 (b.setWidth 32)) ++
    [writeWord 0x28 (BitVec.ofNat 32 bs.length)]

/-- `bufdump k` (R87). -/
def bufdump (k : Nat) : List OpWord := writeWord 0x20 0 :: List.replicate k (readWord 0x24 0)

/-- `setack m` (R87): `wr CTRL, (m << 8) + 1`. -/
def setack (m : BitVec 3) : List OpWord := [writeWord 0x04 ((m.setWidth 32 <<< 8) + 1)]

/-- `waitdone` as the engine sees it, "only reads" of STATUS: `k` rounds of the host's loop (R87). -/
def waitdone (k : Nat) : List OpWord := List.replicate k (readWord 0x08 0)

/-- A hexadecimal digit, capital as the listings have it. -/
def hexDigit (n : Nat) : Char := ("0123456789ABCDEF".toList).getD n '0'

/-- A host-operation word as a listing's ten hex digits (R88). -/
def listingDigits (w : HostWord) : List Char :=
  (List.range 10).map fun k => hexDigit ((w.toNat >>> (36 - 4 * k)) % 16)

/-- `env arrive`, `env drain` and the other environment lines as steps (R87): `env drain` moves all of
T.txq, one DRAIN step a byte (log 16). -/
def envDrain (s : State) : List Event := List.replicate s.transport.txq.length .drain

end Sys2Proof.Machine
end

