-- ==== Sys2Proof/Safety.lean ====
section
/-! DEFINITION. What counts as a safe state and the words the statements are made of: the invariant
of 10_state.md R47, one agent's step, and a run of steps. -/

namespace Sys2Proof.Machine

/-- The ranges of R47, and FB's canonical form. -/
abbrev BoundsOk (s : State) : Prop :=
  Memory.wf s.fb ∧ argCount s ≤ 65530 ∧ s.bufPtr.toNat ≤ 65539 ∧ s.bufLen.toNat ≤ 65539 ∧
    s.frameLen.toNat ≤ 65539 ∧ s.txIdx ≤ s.txLen ∧ s.txLen ≤ 65539

/-- STATUS: BUSY is 1 exactly outside IDLE, BUSY excludes DONE, ERR is 1 exactly when a command ended
with an error code (R30, R47), VALID needs a success (R31), DEV_CODE needs DEVICE_ERROR (R35), and
the completion fields are clear during a TRANSACT (R106, R112). -/
abbrev StatusOk (s : State) : Prop :=
  (s.status.busy = true ↔ s.phase ≠ .idle) ∧
    (s.status.busy = true → s.status.done = false) ∧
    (s.status.err = true ↔ s.status.done = true ∧ s.status.errCode ≠ .noError) ∧
    (s.status.valid = true → s.status.done = true ∧ s.status.err = false) ∧
    (s.status.devCode ≠ 0 → s.status.errCode = .deviceError) ∧
    (s.status.busy = true →
      s.status.errCode = .noError ∧ s.status.devCode = 0 ∧ s.status.fields = false)

/-- L as the bytes listed at FB[2] and FB[3] give it (R75). -/
def listedLength (s : State) : Nat :=
  ((Memory.get s.fb 2).getD 0).toNat + 256 * ((Memory.get s.fb 3).getD 0).toNat

/-- The sequencer (R44, R47): in TX a byte is left to send and BUF_LEN is the request's length; in RX
FRAME_LEN is 0 until four bytes have come and is then the size they give, more than BUF_LEN, and every
received byte stands in FB (R42, R177); while BUSY the idle polls are below the threshold. -/
abbrev SequencerOk (s : State) : Prop :=
  (s.phase = .tx → s.txIdx < s.txLen ∧ s.txLen = s.bufLen.toNat) ∧
    (s.phase = .rx → s.bufLen.toNat < 4 → s.frameLen = 0) ∧
    (s.phase = .rx → 4 ≤ s.bufLen.toNat → s.bufLen.toNat < s.frameLen.toNat) ∧
    (s.phase = .rx → ∀ i, i < s.bufLen.toNat → (Memory.get s.fb i).isSome = true) ∧
    (s.phase = .rx → 4 ≤ s.bufLen.toNat → s.frameLen.toNat = listedLength s + 4) ∧
    (s.status.busy = true → s.idlePolls.toNat < max s.timeoutPolls.toNat 1)

/-- The machine's invariant: every clause of R47 and what keeps it inductive. -/
abbrev Inv (s : State) : Prop := BoundsOk s ∧ StatusOk s ∧ SequencerOk s

/-- One agent's step `e` in state `s`: the step of the machine in which `e` is scheduled first. -/
def act (e : Event) (s : State) : Host.Outcome State Fault Refusal := step (schedule e s)

/-- A run of agents' steps, stopping at a fault or a refusal. -/
def runEvents : List Event → State → Host.Outcome State Fault Refusal
  | [], s => .next s
  | e :: es, s =>
    match act e s with
    | .next t => runEvents es t
    | .fault f => .fault f
    | .refused r => .refused r

/-- Whether an event is a host's access: a 40-bit operation word or a bus access. -/
def Event.isHost : Event → Bool
  | .op (.host _) => true
  | .access _ => true
  | .op (.wire _) | .arrive _ | .drain | .txAccept | .pollTick | .ioFail _ | .reset => false

/-- Whether an event is a step of one of the four agents of 00_scope.md R7: all but reset, which is a
step of its own (R220). A wire word is the engine's TX_ACCEPT of frame byte 4 (log 6). -/
def Event.isAgent : Event → Bool
  | .op _ | .access _ | .arrive _ | .drain | .txAccept | .pollTick | .ioFail _ => true
  | .reset => false

/-- The bytes an event brings to T.rx (R171). -/
def Event.arriving : Event → List Byte
  | .arrive bs => bs
  | .op _ | .access _ | .drain | .txAccept | .pollTick | .ioFail _ | .reset => []

/-- The operation word of a host's aligned 32-bit access, if the event is one. -/
def Event.word : Event → Option OpWord
  | .op w => some w
  | .access a => if a.width = 4 then some (wordOfAccess a) else none
  | .arrive _ | .drain | .txAccept | .pollTick | .ioFail _ | .reset => none

/-- Whether an event is a 32-bit CMD write, which issues a command when it is accepted (R106). -/
def Event.writesCmd (e : Event) : Bool :=
  match e.word with
  | some (.host w) => fieldW w && fieldOff w == 0x0C
  | some (.wire _) | none => false

/-- Whether an event is a host operation that decodes to the instruction `i`. -/
def Event.runs (e : Event) (i : Instr) : Prop := ∃ w, e.word = some w ∧ decode w = .ok i

/-- FB[0 .. n) holds the bytes `f`, n their number. -/
def FbHolds (s : State) (f : List Byte) : Prop :=
  ∀ i, i < f.length → Memory.get s.fb i = f[i]?

/-- STATUS after a command that acceptance has cleared (R106) and that ended (R107): a success when
the code is NONE. -/
def doneStatus (valid fields : Bool) (code : ErrCode) (dev : Byte) : Status where
  busy := false
  done := true
  err := decide (code ≠ .noError)
  valid := valid
  fields := fields
  accessFault := false
  rejected := false
  errCode := code
  devCode := dev

/-- `FB[i]` of a buffer that holds `f`, as a number. -/
def byteAt (f : List Byte) (i : Nat) : Nat := (f.getD i 0).toNat

/-- What DECODE makes of the bytes `f` = FB[0 .. BUF_LEN): R155's checks in order, read off the list of
bytes alone. -/
def decodeExpected (f : List Byte) (s : State) : State :=
  let L := byteAt f 2 + 256 * byteAt f 3
  let c := checksum (f.take (L + 2))
  let s := { s with phase := .idle, frameLen := 0, rxOpcode := 0, rxAddr := 0 }
  let sized := { s with frameLen := BitVec.ofNat 17 (L + 4) }
  if f.length < 2 then { s with status := doneStatus false false .truncated 0 }
  else if byteAt f 0 ≠ 0x52 ∨ byteAt f 1 ≠ 0x42 then
    { s with status := doneStatus false false .invalidHeader 0 }
  else if f.length < 4 then { s with status := doneStatus false false .truncated 0 }
  else if L < 2 then { sized with status := doneStatus false false .lengthInvalid 0 }
  else if f.length < L + 4 then { sized with status := doneStatus false false .truncated 0 }
  else if byteAt f (L + 2) + 256 * byteAt f (L + 3) ≠ c.toNat then
    { sized with crc := c, status := doneStatus false false .checksumMismatch 0 }
  else if L < 5 then { sized with crc := c, status := doneStatus true false .noError 0 }
  else
    { sized with
      crc := c, rxOpcode := BitVec.ofNat 8 (byteAt f 4)
      rxAddr := BitVec.ofNat 16 (byteAt f 5 + 256 * byteAt f 6)
      status := doneStatus true true .noError 0 }

/-- What a complete response `f` = FB[0 .. L+4) makes of a TRANSACT: the checks of R178 to R181 in
order, read off the list of bytes alone. -/
def finishExpected (f : List Byte) (s : State) : State :=
  let L := f.length - 4
  let c := checksum (f.take (L + 2))
  let fail (code : ErrCode) (s : State) : State :=
    { s with
      phase := .idle, bufPtr := 0
      status := { s.status with busy := false, done := true, err := true, errCode := code } }
  let latched : State :=
    { s with
      crc := c
      rxOpcode := if L < 5 then s.rxOpcode else BitVec.ofNat 8 (byteAt f 4)
      rxAddr := if L < 5 then s.rxAddr else BitVec.ofNat 16 (byteAt f 5 + 256 * byteAt f 6)
      status := { s.status with fields := if L < 5 then s.status.fields else true } }
  let success : State :=
    { latched with
      phase := .idle, bufPtr := 0, transport := { s.transport with rx := [], txq := [] }
      status :=
        { latched.status with
          valid := true, busy := false, done := true, err := false, errCode := .noError } }
  let v := byteAt f s.statusIndex.toNat
  if byteAt f 0 ≠ 0x52 ∨ byteAt f 1 ≠ 0x42 then fail .invalidHeader s
  else if L < 2 then fail .lengthInvalid s
  else if byteAt f (L + 2) + 256 * byteAt f (L + 3) ≠ c.toNat then
    fail .checksumMismatch { s with crc := c }
  else if s.ctrl.statusEn = false then success
  else if L + 2 ≤ s.statusIndex.toNat then fail .malformed latched
  else if (v = 0 ∨ v = 1 ∨ v = 2) ∧ s.ctrl.ackMask.getLsbD v = true then success
  else
    fail .deviceError
      { latched with status := { latched.status with devCode := BitVec.ofNat 8 v } }

end Sys2Proof.Machine
end

