-- ==== Sys2Proof/Certificates/Slice0/Obligations.lean ====
section
/-! DEFINITION. The statements for the provers. Each docstring names the rules of spec/ it states; where
a clause is the model's own choice it names the log entry. -/

open Sys2Proof Sys2Proof.Machine

/-! ### Encoding -/

/-- R70-R73, R79: decoding an encoded instruction gives it back, whatever its operands. -/
def Obligations.DecodeOfEncodeIsTheInstruction : Prop :=
  ∀ i : Instr, decode (encode i) = .ok i

/-- R70-R72: encoding a decoded instruction gives its word back, so no bit of a word is dropped. -/
def Obligations.EncodeOfDecodeIsTheWord : Prop :=
  ∀ (w : OpWord) (i : Instr), decode w = .ok i → encode i = w

/-- R71, R82, R83, R100-R103: the words that are no row of the table, each rejected under the name of
its rule. -/
def Obligations.WordsThatAreNoRowAreRejectedByTheirRule : Prop :=
  ∀ (w : Bool) (off : BitVec 7) (data : Word),
    (off.toNat % 4 ≠ 0 → decode (.host (mkHostWord w off data)) = .error (.misaligned w)) ∧
    (off.toNat % 4 = 0 → 0x4C ≤ off.toNat →
      decode (.host (mkHostWord w off data)) = .error (.reservedOffset w)) ∧
    (off ∈ [0x00, 0x08, 0x18, 0x2C, 0x38, 0x3C, 0x40, 0x44] →
      decode (.host (mkHostWord true off data)) = .error .readOnlyWrite) ∧
    (off ∈ [0x0C, 0x1C, 0x30] →
      decode (.host (mkHostWord false off data)) = .error .writeOnlyRead) ∧
    (data.toNat % 256 = 0 ∨ 8 ≤ data.toNat % 256 →
      decode (.host (mkHostWord true 0x0C data)) = .error .illegalCommand)

/-- R70, R73, R79, R88: words of the listings, written out from the encoding, decode to what they
stand for. -/
def Obligations.ListedWordsDecodeToTheirInstructions : Prop :=
  decodeTableWord 40 0x0800000000 = some (.rdStatus 0) ∧
  decodeTableWord 40 0x2C00000000 = some (.rdCrc 0) ∧
  decodeTableWord 40 0x9400005111 = some (.wrAddress 0x5111) ∧
  decodeTableWord 40 0xB000000031 = some (.wrCrcData 0x31) ∧
  decodeTableWord 40 0x8C00000004 = some (.encode 0) ∧
  decodeTableWord 40 0x8C00000106 = some (.transact 1) ∧
  decodeTableWord 8 0x01 = some .wireRead ∧ decodeTableWord 8 0x02 = some .wireWrite

/-! ### Steps -/

/-- The step runs the instruction that the next operation word decodes to, in the state that has taken
the word off the schedule (log 1: the schedule is the model's form of R60's interleaving). -/
def Obligations.StepRunsTheDecodedInstruction : Prop :=
  ∀ (s : State) (w : OpWord) (i : Instr) (rest : List Event),
    s.inputs = .op w :: rest → decode w = .ok i → step s = exec i { s with inputs := rest }

/-- R51, R57, R58: an aligned 32-bit access at BASE + off is the operation whose OFF is off, wherever
BASE is. -/
def Obligations.AlignedAccessAtBaseIsTheOffsetsOperation : Prop :=
  ∀ (s : State) (a : HostAccess) (off : BitVec 7) (rest : List Event),
    a.addr = Config.base + off.toNat → a.width = 4 → s.inputs = .access a :: rest →
    step s = step
      { s with inputs := .op (if a.write then writeWord off a.data else readWord off 0) :: rest }

/-! ### Reset -/

/-- R220, R221, R48: what a reset step leaves, in any state. FB's bytes are UnwrittenBytesAreFreeDraws. -/
def Obligations.ResetSetsTheEngineAndKeepsTheTransport : Prop :=
  ∀ s : State, ∃ t, act .reset s = .next t ∧
    ctrlWord t.ctrl = 0x00000601 ∧ statusWord t.status = 0 ∧ t.opcode = 0x00 ∧ t.address = 0 ∧
    argCount t = 0 ∧ t.bufPtr = 0 ∧ t.bufLen = 0 ∧ t.crc = 0xFFFF ∧ t.timeoutPolls = 10 ∧
    t.idlePolls = 0 ∧ t.frameLen = 0 ∧ t.rxOpcode = 0 ∧ t.rxAddr = 0 ∧ t.statusIndex = 4 ∧
    t.phase = .idle ∧ t.txLen = 0 ∧ t.txIdx = 0 ∧
    t.transport = s.transport

/-- Log 4 (the model's form of "unspecified", 93_implementation_defined.md I3): after a reset step no
byte of FB counts as written, and each read of such a byte is the free draw of the draw counter, which
moves on, so that no two reads need agree. -/
def Obligations.UnwrittenBytesAreFreeDraws : Prop :=
  ∀ (s : State) (i : Nat), i < 65539 →
    (∃ t, act .reset s = .next t ∧ Memory.get t.fb i = none) ∧
    (Memory.get s.fb i = none →
      fbRead i s = .ok (Config.freeByte s.draws, { s with draws := s.draws + 1 }))

/-! ### Refused accesses -/

/-- R100: an access of another width, or a misaligned one, only sets ACCESS_FAULT; a read returns 0. -/
def Obligations.NarrowOrMisalignedAccessIsRefused : Prop :=
  ∀ (s : State) (a : HostAccess), a.width ≠ 4 ∨ a.addr % 4 ≠ 0 →
    act (.access a) s = .next
      { s with
        status := { s.status with accessFault := true }
        rdata := if a.write then s.rdata else 0 }

/-- R101: a reserved offset, whether BUSY is 0 or 1. -/
def Obligations.ReservedOffsetIsRefused : Prop :=
  ∀ (s : State) (off : BitVec 7) (data : Word), off.toNat % 4 = 0 → 0x4C ≤ off.toNat →
    act (.op (readWord off data)) s = .next
      { s with status := { s.status with accessFault := true }, rdata := 0 } ∧
    act (.op (writeWord off data)) s = .next
      { s with status := { s.status with accessFault := true } }

/-- R102: a write to a read-only register, whether BUSY is 0 or 1. -/
def Obligations.WriteToReadOnlyRegisterIsRefused : Prop :=
  ∀ (s : State) (off : BitVec 7) (data : Word),
    off ∈ [0x00, 0x08, 0x18, 0x2C, 0x38, 0x3C, 0x40, 0x44] →
    act (.op (writeWord off data)) s = .next
      { s with status := { s.status with accessFault := true } }

/-- R103: a read of CMD, ARG_DATA or CRC_DATA, whether BUSY is 0 or 1. -/
def Obligations.ReadOfWriteOnlyRegisterReturnsZero : Prop :=
  ∀ (s : State) (off : BitVec 7) (data : Word), off ∈ [0x0C, 0x1C, 0x30] →
    act (.op (readWord off data)) s = .next { s with rdata := 0 }

/-- R82, R109: an illegal command code; it still performs R106's clears. -/
def Obligations.IllegalCommandEndsInIllegalCmd : Prop :=
  ∀ (s : State) (data : Word), data.toNat % 256 = 0 ∨ 8 ≤ data.toNat % 256 →
    (s.status.busy = false →
      act (.op (writeWord 0x0C data)) s = .next
        { s with phase := .idle, status := doneStatus false false .illegalCmd 0 }) ∧
    (s.status.busy = true →
      act (.op (writeWord 0x0C data)) s = .next
        { s with status := { s.status with rejected := true } })

/-- R108: a CMD write while BUSY, whatever its code, only sets REJECTED. -/
def Obligations.CommandWhileBusyIsRejected : Prop :=
  ∀ (s : State) (data : Word), s.status.busy = true →
    act (.op (writeWord 0x0C data)) s = .next
      { s with status := { s.status with rejected := true } }

/-- R104: every register write while BUSY is refused and changes nothing but ACCESS_FAULT. -/
def Obligations.RegisterWritesAreLockedWhileBusy : Prop :=
  ∀ (s : State) (data : Word) (i : Instr), s.status.busy = true →
    i ∈ [.wrCtrl data, .wrOpcode data, .wrAddress data, .wrArgData data, .wrBufPtr data,
      .wrBufData data, .wrBufLen data, .wrCrcData data, .wrTimeoutPolls data,
      .wrStatusIndex data] →
    exec i s = .next { s with status := { s.status with accessFault := true } }

/-- R104, R105, R108 together: while a TRANSACT runs, no host access of any kind changes anything but
ACCESS_FAULT, REJECTED and the value it reads. -/
def Obligations.HostCannotDisturbARunningTransact : Prop :=
  ∀ (s : State) (e : Event), e.isHost = true → s.status.busy = true →
    ∃ v af rj, act e s = .next
      { s with rdata := v, status := { s.status with accessFault := af, rejected := rj } }

/-! ### Register reads -/

/-- R110, R111, R112: ID, CTRL and STATUS, with the codes of R200's table in bits 11:8 and R112's
corner case of a running TRANSACT. -/
def Obligations.ReadsOfIdCtrlAndStatus : Prop :=
  (∀ (s : State) (d : Word), exec (.rdId d) s = .next { s with rdata := 0x5242A001 }) ∧
  (∀ (s : State) (d : Word), exec (.rdCtrl d) s = .next
    { s with
      rdata := s.ctrl.ackMask.setWidth 32 <<< 8 ||| (BitVec.ofBool s.ctrl.statusEn).setWidth 32 }) ∧
  (∀ (s : State) (d : Word), exec (.rdStatus d) s = .next
    { s with
      rdata :=
        s.status.devCode.setWidth 32 <<< 16 ||| (errCodeBits s.status.errCode).setWidth 32 <<< 8 |||
        (BitVec.ofBool s.status.rejected).setWidth 32 <<< 6 |||
        (BitVec.ofBool s.status.accessFault).setWidth 32 <<< 5 |||
        (BitVec.ofBool s.status.fields).setWidth 32 <<< 4 |||
        (BitVec.ofBool s.status.valid).setWidth 32 <<< 3 |||
        (BitVec.ofBool s.status.err).setWidth 32 <<< 2 |||
        (BitVec.ofBool s.status.done).setWidth 32 <<< 1 |||
        (BitVec.ofBool s.status.busy).setWidth 32 }) ∧
  (∀ (s : State) (d : Word) (p : ErrCode × BitVec 4),
    p ∈ [(.noError, 0x0), (.invalidHeader, 0x1), (.checksumMismatch, 0x2), (.truncated, 0x3),
      (.lengthInvalid, 0x4), (.timeout, 0x5), (.ioFailure, 0x6), (.deviceError, 0x7),
      (.malformed, 0x8), (.badOpcode, 0x9), (.illegalCmd, 0xA)] →
    s.status.errCode = p.1 →
    ∃ t, exec (.rdStatus d) s = .next t ∧ t.rdata.extractLsb' 8 4 = p.2) ∧
  (∀ (s : State) (d : Word), Inv s → s.status.busy = true →
    ∃ t, exec (.rdStatus d) s = .next t ∧ t.rdata ∈ [0x01, 0x21, 0x41, 0x61])

/-- R113-R116, R118: the request and buffer registers. -/
def Obligations.ReadsOfTheRequestAndBufferRegisters : Prop :=
  ∀ (s : State) (d : Word),
    exec (.rdOpcode d) s = .next { s with rdata := s.opcode.setWidth 32 } ∧
    exec (.rdAddress d) s = .next { s with rdata := s.address.setWidth 32 } ∧
    exec (.rdArgCount d) s = .next { s with rdata := BitVec.ofNat 32 s.arg.length } ∧
    (Inv s → (BitVec.ofNat 32 s.arg.length).toNat = s.arg.length ∧ s.arg.length ≤ 65530) ∧
    exec (.rdBufPtr d) s = .next { s with rdata := s.bufPtr.setWidth 32 } ∧
    exec (.rdBufLen d) s = .next { s with rdata := s.bufLen.setWidth 32 }

/-- R119-R125: the checksum, poll and response registers. -/
def Obligations.ReadsOfTheChecksumPollAndResponseRegisters : Prop :=
  ∀ (s : State) (d : Word),
    exec (.rdCrc d) s = .next { s with rdata := s.crc.setWidth 32 } ∧
    exec (.rdTimeoutPolls d) s = .next { s with rdata := s.timeoutPolls.setWidth 32 } ∧
    exec (.rdIdlePolls d) s = .next { s with rdata := s.idlePolls.setWidth 32 } ∧
    exec (.rdFrameLen d) s = .next { s with rdata := s.frameLen.setWidth 32 } ∧
    exec (.rdRxOpcode d) s = .next { s with rdata := s.rxOpcode.setWidth 32 } ∧
    exec (.rdRxAddr d) s = .next { s with rdata := s.rxAddr.setWidth 32 } ∧
    exec (.rdStatusIndex d) s = .next { s with rdata := s.statusIndex.setWidth 32 }

/-- R105, R117: BUF_DATA read. A byte not written since reset may read as any value, the same for every
value of the draw counter (log 4). -/
def Obligations.BufDataReadReturnsTheByteAndAdvances : Prop :=
  ∀ (s : State) (d : Word),
    (s.status.busy = true ∨ s.bufPtr.toNat = 65539 →
      exec (.rdBufData d) s = .next
        { s with status := { s.status with accessFault := true }, rdata := 0 }) ∧
    (s.status.busy = false → s.bufPtr.toNat < 65539 →
      ∃ (v : Byte) (n : Nat), exec (.rdBufData d) s = .next
        { s with rdata := v.setWidth 32, bufPtr := s.bufPtr + 1, draws := n } ∧
        ∀ b, Memory.get s.fb s.bufPtr.toNat = some b → v = b ∧ n = s.draws)

/-- R22's bits column, R84: every bit a register does not implement reads 0. -/
def Obligations.UnimplementedBitsReadZero : Prop :=
  ∀ (s : State) (r : RegRow) (d : Word), Inv s → r ∈ registerMap →
    ∃ t, act (.op (readWord r.offset d)) s = .next t ∧ t.rdata &&& ~~~r.bits = 0

/-! ### Register writes -/

/-- R126: CTRL takes data[0] and data[10:8]; the other bits are ignored. -/
def Obligations.CtrlWriteStoresItsTwoFields : Prop :=
  ∀ (s : State) (data : Word), s.status.busy = false →
    ∃ c : Ctrl, exec (.wrCtrl data) s = .next { s with ctrl := c } ∧
      c.statusEn = data.getLsbD 0 ∧ ∀ k, k < 3 → c.ackMask.getLsbD k = data.getLsbD (8 + k)

/-- R127, R128, R132, R133: OPCODE, ADDRESS, TIMEOUT_POLLS and STATUS_INDEX take their low bits. -/
def Obligations.PlainWritesStoreTheLowBits : Prop :=
  ∀ (s : State) (data : Word), s.status.busy = false →
    exec (.wrOpcode data) s = .next { s with opcode := data.setWidth 8 } ∧
    exec (.wrAddress data) s = .next { s with address := data.setWidth 16 } ∧
    exec (.wrTimeoutPolls data) s = .next { s with timeoutPolls := data.setWidth 16 } ∧
    exec (.wrStatusIndex data) s = .next { s with statusIndex := data.setWidth 16 }

/-- R129, R131: BUF_PTR and BUF_LEN take min(data[16:0], 65539). -/
def Obligations.PointerAndLengthWritesClamp : Prop :=
  ∀ (s : State) (data : Word), s.status.busy = false →
    ∃ v : BitVec 17, v.toNat = min (data.toNat % 2 ^ 17) 65539 ∧
      exec (.wrBufPtr data) s = .next { s with bufPtr := v } ∧
      exec (.wrBufLen data) s = .next { s with bufLen := v }

/-- R130: BUF_DATA write: refused at 65539, else one byte of FB and BUF_PTR change. -/
def Obligations.BufDataWriteStoresOneByteAndAdvances : Prop :=
  ∀ (s : State) (data : Word), s.status.busy = false →
    (s.bufPtr.toNat = 65539 →
      exec (.wrBufData data) s = .next { s with status := { s.status with accessFault := true } }) ∧
    (s.bufPtr.toNat < 65539 →
      ∃ m : Memory, exec (.wrBufData data) s = .next { s with fb := m, bufPtr := s.bufPtr + 1 } ∧
        Memory.get m s.bufPtr.toNat = some (data.setWidth 8) ∧
        ∀ i, i ≠ s.bufPtr.toNat → Memory.get m i = Memory.get s.fb i)

/-- R152: ARG_DATA write: refused when ARG is full, else one byte is appended. -/
def Obligations.ArgDataWriteAppendsOneByte : Prop :=
  ∀ (s : State) (data : Word), s.status.busy = false →
    (argCount s = 65530 →
      exec (.wrArgData data) s = .next { s with status := { s.status with accessFault := true } }) ∧
    (argCount s ≠ 65530 →
      ∃ t, exec (.wrArgData data) s = .next t ∧ t = { s with arg := t.arg } ∧
        argCount t = argCount s + 1 ∧ t.arg[argCount s]? = some (data.setWidth 8) ∧
        ∀ i, i < argCount s → t.arg[i]? = s.arg[i]?)

/-- R140, R144: a CRC_DATA write folds data[7:0] into CRC by R140's loop, and changes nothing else. -/
def Obligations.CrcDataWriteFoldsOneByte : Prop :=
  ∀ (s : State) (data : Word), s.status.busy = false →
    exec (.wrCrcData data) s = .next
      { s with
        crc :=
          Nat.repeat
            (fun c : BitVec 16 => if c.getLsbD 0 then (c >>> 1) ^^^ 0xA001 else c >>> 1) 8
            (s.crc ^^^ (data.setWidth 8).setWidth 16) }

/-! ### Commands that end in their own step -/

/-- R143, R151, R183: CRC_INIT, ARG_CLEAR and FLUSH: their effect, R106's clears and a success. -/
def Obligations.SmallCommandsDoTheirOneEffect : Prop :=
  ∀ (s : State) (ig : BitVec 24), s.status.busy = false →
    exec (.crcInit ig) s = .next
      { s with phase := .idle, crc := 0xFFFF, status := doneStatus false false .noError 0 } ∧
    exec (.argClear ig) s = .next
      { s with phase := .idle, arg := [], status := doneStatus false false .noError 0 } ∧
    exec (.flush ig) s = .next
      { s with
        phase := .idle, transport := { s.transport with rx := [], txq := [] }
        status := doneStatus false false .noError 0 }

/-- R145: CRC_BUF. Bytes not written since reset may contribute any value (log 4). -/
def Obligations.CrcBufComputesTheBuffersChecksum : Prop :=
  ∀ (s : State) (ig : BitVec 24), s.status.busy = false → s.bufLen.toNat ≤ 65539 →
    ∃ (f : List Byte) (n : Nat), f.length = s.bufLen.toNat ∧
      (∀ i b, i < f.length → Memory.get s.fb i = some b → f[i]? = some b) ∧
      (FbHolds s f → n = s.draws) ∧
      exec (.crcBuf ig) s = .next
        { s with
          phase := .idle, crc := crcSeq 0xFFFF f, draws := n
          status := doneStatus false false .noError 0 }

/-- R141, R142: the checksum is the fold of R140's loop over the bytes in order from the seed, its
values, and its residue: a sequence followed by its own checksum has checksum 0. -/
def Obligations.ChecksumValuesAndResidue : Prop :=
  (∀ f, checksum f = crcSeq 0xFFFF f) ∧ (∀ c, crcSeq c [] = c) ∧
  (∀ (c : BitVec 16) (b : Byte) (f : List Byte), crcSeq c (b :: f) =
    crcSeq
      (Nat.repeat (fun c : BitVec 16 => if c.getLsbD 0 then (c >>> 1) ^^^ 0xA001 else c >>> 1) 8
        (c ^^^ b.setWidth 16)) f) ∧
  checksum [] = 0xFFFF ∧ checksum [0x00] = 0x40BF ∧ checksum [0xFF] = 0x00FF ∧
  checksum [0x31, 0x32, 0x33, 0x34, 0x35, 0x36, 0x37, 0x38, 0x39] = 0x4B37 ∧
  ∀ f : List Byte, checksum (f ++ [lo8 (checksum f), hi8 (checksum f)]) = 0x0000

/-! ### The frame codec -/

/-- R150, R74, R75: build_request byte by byte. -/
def Obligations.BuildRequestLaysOutTheFrame : Prop :=
  ∀ (op : Byte) (addr : BitVec 16) (arg : List Byte), arg.length ≤ 65530 →
    let f := buildRequest op addr arg
    let n := arg.length
    f.length = n + 9 ∧ byteAt f 0 = 0x52 ∧ byteAt f 1 = 0x42 ∧
    byteAt f 2 = (n + 5) % 256 ∧ byteAt f 3 = (n + 5) / 256 ∧ byteAt f 4 = op.toNat ∧
    byteAt f 5 = addr.toNat % 256 ∧ byteAt f 6 = addr.toNat / 256 ∧
    (∀ k, k < n → f[7 + k]? = arg[k]?) ∧
    byteAt f (n + 7) + 256 * byteAt f (n + 8) = (checksum (f.take (n + 7))).toNat

/-- R153: ENCODE, refused or not. -/
def Obligations.EncodeBuildsTheRequestInTheFrameBuffer : Prop :=
  ∀ (s : State) (ig : BitVec 24), s.status.busy = false →
    (s.opcode ≠ 0x01 → s.opcode ≠ 0x02 →
      exec (.encode ig) s = .next
        { s with
          phase := .idle, frameLen := 0, status := doneStatus false false .badOpcode 0 }) ∧
    (s.opcode = 0x01 ∨ s.opcode = 0x02 → argCount s ≤ 65530 →
      let f := buildRequest s.opcode s.address s.arg
      let n := argCount s
      ∃ m : Memory, exec (.encode ig) s = .next
        { s with
          phase := .idle, fb := m
          crc := BitVec.ofNat 16 (byteAt f (n + 7) + 256 * byteAt f (n + 8))
          bufLen := BitVec.ofNat 17 (n + 9), bufPtr := 0, frameLen := BitVec.ofNat 17 (n + 9)
          status := doneStatus false false .noError 0 } ∧
        ∀ i, Memory.get m i = if i < n + 9 then f[i]? else Memory.get s.fb i)

/-- R154, R155, R202: DECODE of a buffer whose bytes are known is `decodeExpected`, R155's checks in
order on the list of bytes. -/
def Obligations.DecodeIsTheCheckOfTheBufferedBytes : Prop :=
  ∀ (s : State) (ig : BitVec 24) (f : List Byte), s.status.busy = false →
    f.length = s.bufLen.toNat → f.length ≤ 65539 → FbHolds s f →
    exec (.decode ig) s = .next (decodeExpected f s)

/-- R155, R204 on every buffer, the bytes not written since reset included: DECODE ends in its own step,
changes nothing but the registers its rule names (and the model's draw counter, log 4), and VALID says
whether it succeeded. -/
def Obligations.DecodeAlwaysEndsAndKeepsTheRest : Prop :=
  ∀ (s : State) (ig : BitVec 24), s.status.busy = false → s.bufLen.toNat ≤ 65539 →
    ∃ t, exec (.decode ig) s = .next t ∧
      t = { s with
        phase := .idle, status := t.status, frameLen := t.frameLen, rxOpcode := t.rxOpcode
        rxAddr := t.rxAddr, crc := t.crc, draws := t.draws } ∧
      t.status = doneStatus t.status.valid t.status.fields t.status.errCode 0 ∧
      (t.status.valid = true ↔ t.status.errCode = .noError) ∧
      (t.status.fields = true → t.status.valid = true)

/-- R157: DECODE writes neither FB nor BUF_LEN, and two DECODEs in a row give the same result. -/
def Obligations.DecodeTwiceIsDecodeOnce : Prop :=
  ∀ (s t : State) (ig ig' : BitVec 24) (f : List Byte), s.status.busy = false →
    f.length = s.bufLen.toNat → f.length ≤ 65539 → FbHolds s f →
    exec (.decode ig) s = .next t →
    t.fb = s.fb ∧ t.bufLen = s.bufLen ∧ exec (.decode ig') t = .next t

/-- R156: an ENCODE followed by a DECODE gives the request's fields back. -/
def Obligations.EncodeThenDecodeRoundTrips : Prop :=
  ∀ (s : State) (ig ig' : BitVec 24), s.status.busy = false →
    s.opcode = 0x01 ∨ s.opcode = 0x02 → argCount s ≤ 65530 →
    ∃ t u, exec (.encode ig) s = .next t ∧ exec (.decode ig') t = .next u ∧
      u.status.done = true ∧ u.status.err = false ∧ u.status.valid = true ∧
      u.status.fields = true ∧ u.rxOpcode = s.opcode ∧ u.rxAddr = s.address ∧
      (∀ k, k < argCount s → Memory.get u.fb (7 + k) = s.arg[k]?) ∧
      u.frameLen.toNat = argCount s + 9 ∧ u.bufLen.toNat = argCount s + 9

/-- R79, R153: ENCODE succeeds exactly when OPCODE holds a wire opcode, and then emits that byte as
frame byte 4. -/
def Obligations.EncodeEmitsOnlyTheWireOpcodes : Prop :=
  ∀ (s : State) (ig : BitVec 24), s.status.busy = false → argCount s ≤ 65530 →
    ∃ t, exec (.encode ig) s = .next t ∧
      (t.status.err = false ↔
        decode (.wire s.opcode) = .ok .wireRead ∨ decode (.wire s.opcode) = .ok .wireWrite) ∧
      (t.status.err = false → Memory.get t.fb 4 = some s.opcode)

/-- R79 as a step (log 6, the model's choice): a wire opcode is the transport's acceptance of request
frame byte 4 (R174) where that byte is the opcode's; where byte 4 is not the next to send, or is another
byte, nothing happens. Whatever its byte, a wire word is a step of R7's engine, TX_ACCEPT, or none. -/
def Obligations.WireOpcodesTransmitRequestFrameByteFour : Prop :=
  ∀ (s : State) (i : Instr) (b : Byte), (i, b) ∈ [(Instr.wireRead, 0x01), (Instr.wireWrite, 0x02)] →
    (s.phase = .tx → s.txIdx = 4 → Memory.get s.fb 4 = some b →
      exec i s = .next
        (if s.txLen = 5 then
          { s with
            transport := { s.transport with txq := s.transport.txq ++ [b] }
            txIdx := 5, idlePolls := 0, phase := .rx, bufLen := 0, frameLen := 0 }
        else
          { s with
            transport := { s.transport with txq := s.transport.txq ++ [b] }
            txIdx := 5, idlePolls := 0 })) ∧
    (s.phase ≠ .tx ∨ s.txIdx ≠ 4 ∨ (∃ c, c ≠ b ∧ Memory.get s.fb 4 = some c) →
      exec i s = .next s) ∧
    ∀ w, act (.op (.wire w)) s = act .txAccept s ∨ act (.op (.wire w)) s = .next s

/-! ### TRANSACT -/

/-- R172, R173: the acceptance of a TRANSACT. -/
def Obligations.TransactStartsTransmittingOrReceiving : Prop :=
  ∀ (s : State) (ig : BitVec 24), s.status.busy = false →
    exec (.transact ig) s = .next
      { s with
        phase := if s.bufLen = 0 then .rx else .tx
        txLen := s.bufLen.toNat, txIdx := 0, idlePolls := 0, frameLen := 0, rxOpcode := 0
        rxAddr := 0
        status :=
          { busy := true, done := false, err := false, valid := false, fields := false
            accessFault := false, rejected := false, errCode := .noError, devCode := 0 } }

/-- R174: TX_ACCEPT in phase TX: one byte of FB into T.txq, and the RX phase after the last. -/
def Obligations.AcceptSendsTheNextByte : Prop :=
  ∀ s : State, s.phase = .tx → s.txIdx < 65539 →
    ∃ (b : Byte) (n : Nat), (∀ c, Memory.get s.fb s.txIdx = some c → b = c ∧ n = s.draws) ∧
      act .txAccept s = .next
        (if s.txIdx + 1 = s.txLen then
          { s with
            transport := { s.transport with txq := s.transport.txq ++ [b] }
            txIdx := s.txIdx + 1, idlePolls := 0, phase := .rx, bufLen := 0, frameLen := 0
            draws := n }
        else
          { s with
            transport := { s.transport with txq := s.transport.txq ++ [b] }
            txIdx := s.txIdx + 1, idlePolls := 0, draws := n })

/-- R64, R68: in phase TX no agent's step but a failure changes FB while the TRANSACT runs, and what is
sent is FB's bytes in order: each step sends none, or the byte at tx_idx. -/
def Obligations.TransmittedBytesAreTheBuffersInOrder : Prop :=
  ∀ (s t : State) (e : Event), Inv s → s.phase = .tx → e.isAgent = true →
    (∀ a, e ≠ .ioFail a) → act e s = .next t → t.phase ≠ .idle →
    t.fb = s.fb ∧ t.txLen = s.txLen ∧
      ((t.txIdx = s.txIdx ∧ t.phase = .tx ∧
          t.transport.wire ++ t.transport.txq = s.transport.wire ++ s.transport.txq) ∨
        (t.txIdx = s.txIdx + 1 ∧ ∃ b, (∀ c, Memory.get s.fb s.txIdx = some c → b = c) ∧
          t.transport.wire ++ t.transport.txq = s.transport.wire ++ s.transport.txq ++ [b]))

/-- R175 and R176 on an empty queue: a poll without progress counts, and reaching
max(TIMEOUT_POLLS, 1) ends the TRANSACT with TIMEOUT. -/
def Obligations.PollWithoutProgressCountsToTheTimeout : Prop :=
  ∀ s : State, Inv s → (s.phase = .tx ∨ (s.phase = .rx ∧ s.transport.rx = [])) →
    (s.idlePolls + 1).toNat = s.idlePolls.toNat + 1 ∧
    act .pollTick s = .next
      (if max s.timeoutPolls.toNat 1 ≤ s.idlePolls.toNat + 1 then
        { s with
          idlePolls := s.idlePolls + 1, bufPtr := 0, phase := .idle
          status :=
            { s.status with busy := false, done := true, err := true, errCode := .timeout } }
      else { s with idlePolls := s.idlePolls + 1 })

/-- R176: a poll that finds bytes clears the count and receives the head; it goes on with the rest
exactly while the phase is RX. -/
def Obligations.PollReceivesByteByByteWhileInRx : Prop :=
  ∀ (s : State) (b : Byte) (rest : List Byte), Inv s → s.phase = .rx →
    s.transport.rx = b :: rest →
    ∃ u, rxByte b { s with idlePolls := 0, transport := { s.transport with rx := rest } } = .ok u ∧
      act .pollTick s =
        if u.phase = .rx ∧ u.transport.rx ≠ [] then act .pollTick u else .next u

/-- R177: the receive of one byte: it is stored at BUF_LEN, the fourth byte fixes FRAME_LEN, and the
frame's last byte starts the checks. `lo` is frame byte 2 when the fourth byte arrives. -/
def Obligations.ReceivedByteIsStoredAndMayCompleteTheFrame : Prop :=
  ∀ (s : State) (b lo : Byte), Inv s → s.phase = .rx →
    (s.bufLen.toNat = 3 → Memory.get s.fb 2 = some lo) →
    ∃ (m : Memory) (fl : BitVec 17),
      (∀ i, Memory.get m i = if i = s.bufLen.toNat then some b else Memory.get s.fb i) ∧
      (s.bufLen.toNat = 3 → fl.toNat = lo.toNat + 256 * b.toNat + 4) ∧
      (s.bufLen.toNat ≠ 3 → fl = s.frameLen) ∧
      let u := { s with fb := m, bufLen := s.bufLen + 1, frameLen := fl }
      u.bufLen.toNat = s.bufLen.toNat + 1 ∧
      rxByte b s = if 4 ≤ u.bufLen.toNat ∧ u.bufLen = u.frameLen then finish u else .ok u

/-- R178, R179, R180: the checks of a complete response are `finishExpected`, read off its bytes. -/
def Obligations.FinishIsTheCheckOfTheReceivedBytes : Prop :=
  ∀ (s : State) (f : List Byte), 4 ≤ f.length → f.length ≤ 65539 →
    f.length = s.frameLen.toNat → FbHolds s f → finish s = .ok (finishExpected f s)

/-- R181: after a poll that ends a TRANSACT in success, T.rx and T.txq are empty, BUF_PTR is 0, and
FB[0 .. BUF_LEN) is the validated response with its checksum in CRC. -/
def Obligations.SuccessClearsTheTransportAndLeavesTheFrame : Prop :=
  ∀ s t : State, Inv s → s.phase = .rx → act .pollTick s = .next t → t.status.valid = true →
    t.phase = .idle ∧ t.status.done = true ∧ t.status.err = false ∧ t.status.errCode = .noError ∧
    t.transport = { s.transport with rx := [], txq := [] } ∧ t.bufPtr = 0 ∧ t.idlePolls = 0 ∧
    t.bufLen = t.frameLen ∧
    ∃ f : List Byte, f.length = t.bufLen.toNat ∧ 6 ≤ f.length ∧ FbHolds t f ∧
      byteAt f 0 = 0x52 ∧ byteAt f 1 = 0x42 ∧
      byteAt f 2 + 256 * byteAt f 3 + 4 = f.length ∧
      t.crc = checksum (f.take (f.length - 2)) ∧
      byteAt f (f.length - 2) + 256 * byteAt f (f.length - 1) = t.crc.toNat

/-- R182: an I/O failure ends a running TRANSACT and touches an idle engine not at all. The transport's
own state after it is whatever the failure leaves (log 7). -/
def Obligations.IoFailureEndsARunningTransact : Prop :=
  ∀ (s : State) (after : Transport),
    (s.phase = .idle → act (.ioFail after) s = .next { s with transport := after }) ∧
    (s.phase ≠ .idle →
      act (.ioFail after) s = .next
        { s with
          transport := after, bufPtr := 0, phase := .idle
          status :=
            { s.status with busy := false, done := true, err := true, errCode := .ioFailure } })

/-- R171: arrivals and drains are enabled in every phase and touch only the transport (that an arrival
of no byte changes nothing is the model's choice, log 18); a poll in IDLE changes nothing (R184). -/
def Obligations.TransportStepsAndIdleSteps : Prop :=
  ∀ s : State,
    (∀ bs, act (.arrive bs) s = .next
      { s with transport := { s.transport with rx := s.transport.rx ++ bs } }) ∧
    (s.transport.txq = [] → act .drain s = .next s) ∧
    (∀ b q, s.transport.txq = b :: q → act .drain s = .next
      { s with transport := { s.transport with txq := q, wire := s.transport.wire ++ [b] } }) ∧
    (s.phase = .idle → act .pollTick s = .next s)

/-- Log 9 (the model's choice of T.ready, R46): in phase TX a step takes a byte exactly when T.ready,
whichever form of acceptance the schedule holds. Outside TX, where R184 says the step is not enabled, a
TX_ACCEPT is taken off the schedule and changes nothing. -/
def Obligations.TransportAcceptsExactlyWhenReady : Prop :=
  (∀ s t : State, Inv s → s.phase = .tx → step s = .next t →
    (s.tReady = true ↔ t.txIdx = s.txIdx + 1)) ∧
  ∀ s : State, s.phase ≠ .tx → act .txAccept s = .next s

/-- R185: chunking independence. Two schedules of arrivals and polls that bring the same bytes and both
complete the frame without a timeout leave the same machine but for the transport; FB holds the first
FRAME_LEN of the bytes, IDLE_POLLS is 0, and a success leaves T.rx empty at its poll. -/
def Obligations.ChunkingDoesNotChangeTheResponse : Prop :=
  ∀ (s t₁ t₂ : State) (E₁ E₂ : List Event), Inv s → s.phase = .rx → s.bufLen = 0 →
    (∀ e ∈ E₁ ++ E₂, e = .pollTick ∨ ∃ bs, e = .arrive bs) →
    E₁.flatMap Event.arriving = E₂.flatMap Event.arriving →
    runEvents E₁ s = .next t₁ → runEvents E₂ s = .next t₂ →
    t₁.phase = .idle → t₂.phase = .idle →
    t₁.status.errCode ≠ .timeout → t₂.status.errCode ≠ .timeout →
    t₂ = { t₁ with transport := t₂.transport } ∧ t₁.idlePolls = 0 ∧ t₁.bufLen = t₁.frameLen ∧
    (∀ i, i < t₁.bufLen.toNat →
      Memory.get t₁.fb i = (s.transport.rx ++ E₁.flatMap Event.arriving)[i]?) ∧
    (t₁.status.valid = true → ∀ E e u, E₁ = E ++ [e] → runEvents E s = .next u →
      u.phase = .rx → t₁.transport.rx = [])

/-- R188: bounded completion. Whatever the four agents do, a running TRANSACT completes within
(tx_len + 65541) × max(TIMEOUT_POLLS, 1) poll ticks. -/
def Obligations.TransactCompletesWithinThePollBound : Prop :=
  ∀ (s : State) (E : List Event), Inv s → s.status.busy = true →
    (∀ e ∈ E, e.isAgent = true) →
    (s.txLen + 65541) * max s.timeoutPolls.toNat 1 ≤ E.count .pollTick →
    ∃ k t, k ≤ E.length ∧ runEvents (E.take k) s = .next t ∧ t.status.busy = false ∧
      t.status.done = true

/-- R186: the response is not matched to the request: what a poll does in phase RX does not depend on
OPCODE, ADDRESS or ARG. -/
def Obligations.ResponseIsNotMatchedToTheRequest : Prop :=
  ∀ (s t : State) (op : BitVec 8) (ad : BitVec 16) (arg : List Byte), Inv s → s.phase = .rx →
    act .pollTick s = .next t →
    act .pollTick { s with opcode := op, address := ad, arg := arg } =
      .next { t with opcode := op, address := ad, arg := arg }

/-! ### Whole-machine rules -/

/-- R47, R30, R44: every step of every agent keeps the invariant. -/
def Obligations.EveryStepKeepsTheInvariant : Prop :=
  ∀ s t : State, Inv s → step s = .next t → Inv t

/-- The state after reset meets the invariant (R48). -/
def Obligations.ResetMeetsTheInvariant : Prop := Inv State.reset

/-- R201: no error stops the engine. From a state that meets the invariant every step of every agent
answers a next state (the wire words as logs 6 and 11 give them a step). -/
def Obligations.NoStepStopsTheMachine : Prop :=
  ∀ (s : State) (e : Event), Inv s → ∃ t, act e s = .next t

/-- R33, R34, R227: ACCESS_FAULT and REJECTED are cleared only by an accepted command or by reset. -/
def Obligations.StickyIndicatorsLastUntilACommandOrReset : Prop :=
  ∀ (s t : State) (e : Event), Inv s → act e s = .next t →
    (s.status.accessFault = true ∧ t.status.accessFault = false) ∨
      (s.status.rejected = true ∧ t.status.rejected = false) →
    e = .reset ∨ (e.writesCmd = true ∧ s.status.busy = false)

/-- R31: what sets VALID and what clears it. -/
def Obligations.ValidIsTheResultOfDecodeOrTransact : Prop :=
  ∀ (s t : State) (e : Event), Inv s → act e s = .next t →
    (s.status.valid = false → t.status.valid = true →
      ((∃ ig, e.runs (.decode ig)) ∨ (e = .pollTick ∧ s.phase = .rx)) ∧
        t.status.done = true ∧ t.status.err = false) ∧
    (s.status.valid = true → t.status.valid = false →
      e = .reset ∨ (e.writesCmd = true ∧ s.status.busy = false)) ∧
    (e.writesCmd = true → s.status.busy = false → t.status.valid = true →
      ∃ ig, e.runs (.decode ig))

/-- R46, R183: no host operation but FLUSH touches the transport, so bytes left in T.rx by one exchange
are there for the next. -/
def Obligations.OnlyFlushLetsTheHostTouchTheTransport : Prop :=
  ∀ (s t : State) (e : Event), Inv s → e.isHost = true → act e s = .next t →
    t.transport = s.transport ∨
      ((∃ ig, e.runs (.flush ig)) ∧ t.transport = { s.transport with rx := [], txq := [] })

/-- R57: the bus lanes of a register value, bits [7:0] at the lowest address. -/
def Obligations.BusLanesAreLittleEndian : Prop :=
  ∀ (v : Word) (k : Nat), k < 4 →
    ((busLanes v)[k]?).map BitVec.toNat = some (v.toNat / 256 ^ k % 256)

/-- Log 10 (the model's choice): a frame-buffer index of 65539 or more, which R52 says no rule forms,
stops the machine by name. -/
def Obligations.MissingFrameBufferIndexFaults : Prop :=
  ∀ (s : State) (i : Nat) (b : Byte), 65539 ≤ i →
    fbRead i s = .error (.frameBufferIndex i) ∧ fbWrite i b s = .error (.frameBufferIndex i) ∧
    (s.status.busy = false → s.bufPtr.toNat = i → 65539 < i →
      ∀ d, exec (.rdBufData d) s = .fault (.frameBufferIndex i) ∧
        exec (.wrBufData d) s = .fault (.frameBufferIndex i))
end

