-- ==== Sys2Proof/Laws/Memory.lean ====
section
/-! SUPPORT. The laws of FB's content (20_memory.md R52): reading after writing, and the canonical
form kept by every operation. -/

namespace Sys2Proof.Machine

theorem Memory.get_set_same (m : Memory) (i : Nat) (v : Byte) :
    Memory.get (Memory.set m i v) i = some v := by
  induction m with
  | nil => simp [Memory.set, Memory.get]
  | cons c m ih =>
    obtain ⟨a, b⟩ := c
    simp only [Memory.set]
    split
    · simp [Memory.get]
    · split
      · simp [Memory.get]
      · rename_i h₁ h₂
        simp [Memory.get, ih, Ne.symm h₂]

theorem Memory.get_set_other (m : Memory) (i j : Nat) (v : Byte) (h : j ≠ i) :
    Memory.get (Memory.set m i v) j = Memory.get m j := by
  induction m with
  | nil => simp [Memory.set, Memory.get, Ne.symm h]
  | cons c m ih =>
    obtain ⟨a, b⟩ := c
    simp only [Memory.set]
    split
    · simp [Memory.get, Ne.symm h]
    · split
      · rename_i h₁ h₂
        subst h₂
        simp [Memory.get, Ne.symm h]
      · simp [Memory.get, ih]

/-- Reading after a write: the written byte at its index, the old content elsewhere. -/
theorem Memory.get_set (m : Memory) (i j : Nat) (v : Byte) :
    Memory.get (Memory.set m i v) j = if j = i then some v else Memory.get m j := by
  split
  · rename_i h; rw [h, Memory.get_set_same]
  · exact Memory.get_set_other m i j v ‹_›

theorem Memory.mem_set {m : Memory} {i : Nat} {v : Byte} {c : Host.Cell}
    (h : c ∈ Memory.set m i v) : c = (i, v) ∨ c ∈ m := by
  induction m with
  | nil => simpa [Memory.set] using h
  | cons d m ih =>
    obtain ⟨a, b⟩ := d
    simp only [Memory.set] at h
    split at h
    · simpa using h
    · split at h
      · rcases List.mem_cons.1 h with h | h
        · exact .inl h
        · exact .inr (List.mem_cons_of_mem _ h)
      · rcases List.mem_cons.1 h with h | h
        · exact .inr (h ▸ List.mem_cons_self)
        · exact (ih h).imp id (List.mem_cons_of_mem _)

theorem Memory.set_rising (m : Memory) (i : Nat) (v : Byte)
    (h : (m.map Prod.fst).Pairwise (· < ·)) :
    ((Memory.set m i v).map Prod.fst).Pairwise (· < ·) := by
  induction m with
  | nil => simp [Memory.set]
  | cons c m ih =>
    obtain ⟨a, b⟩ := c
    simp only [List.map_cons, List.pairwise_cons] at h
    obtain ⟨ha, hm⟩ := h
    simp only [Memory.set]
    split
    · rename_i hi
      simp only [List.map_cons, List.pairwise_cons]
      refine ⟨fun x hx => ?_, ha, hm⟩
      rcases List.mem_cons.1 hx with hx | hx
      · omega
      · exact lt_trans hi (ha x hx)
    · split
      · rename_i _ he
        subst he
        simp only [List.map_cons, List.pairwise_cons]
        exact ⟨ha, hm⟩
      · rename_i h₁ h₂
        simp only [List.map_cons, List.pairwise_cons]
        refine ⟨fun x hx => ?_, ih hm⟩
        obtain ⟨c, hc, rfl⟩ := List.mem_map.1 hx
        rcases Memory.mem_set hc with rfl | hc
        · show a < i
          omega
        · exact ha _ (List.mem_map_of_mem hc)

/-- A write at an index that exists keeps the canonical form. -/
theorem Memory.set_wf (m : Memory) (i : Nat) (v : Byte) (hi : i < Config.fbCap)
    (h : Memory.wf m) : Memory.wf (Memory.set m i v) := by
  refine ⟨Memory.set_rising m i v h.1, fun c hc => ?_⟩
  rcases Memory.mem_set hc with rfl | hc
  · exact hi
  · exact h.2 c hc

theorem Memory.empty_wf : Memory.wf [] := by simp [Memory.wf]

end Sys2Proof.Machine
end

