-- ==== Sys2Proof/Laws/State.lean ====
section
/-! SUPPORT. One lemma for each field of State under each named update, so that no later proof unfolds
an update. -/

namespace Sys2Proof.Machine

/-! ### raiseAccessFault -/

@[simp] theorem raiseAccessFault_ctrl (s : State) : (raiseAccessFault s).ctrl = s.ctrl := rfl
@[simp] theorem raiseAccessFault_status (s : State) :
    (raiseAccessFault s).status =
      { s.status with accessFault := true } := rfl
@[simp] theorem raiseAccessFault_opcode (s : State) : (raiseAccessFault s).opcode = s.opcode := rfl
@[simp] theorem raiseAccessFault_address (s : State) :
    (raiseAccessFault s).address = s.address := rfl
@[simp] theorem raiseAccessFault_arg (s : State) : (raiseAccessFault s).arg = s.arg := rfl
@[simp] theorem raiseAccessFault_bufPtr (s : State) : (raiseAccessFault s).bufPtr = s.bufPtr := rfl
@[simp] theorem raiseAccessFault_bufLen (s : State) : (raiseAccessFault s).bufLen = s.bufLen := rfl
@[simp] theorem raiseAccessFault_fb (s : State) : (raiseAccessFault s).fb = s.fb := rfl
@[simp] theorem raiseAccessFault_crc (s : State) : (raiseAccessFault s).crc = s.crc := rfl
@[simp] theorem raiseAccessFault_timeoutPolls (s : State) :
    (raiseAccessFault s).timeoutPolls = s.timeoutPolls := rfl
@[simp] theorem raiseAccessFault_idlePolls (s : State) :
    (raiseAccessFault s).idlePolls = s.idlePolls := rfl
@[simp] theorem raiseAccessFault_frameLen (s : State) :
    (raiseAccessFault s).frameLen = s.frameLen := rfl
@[simp] theorem raiseAccessFault_rxOpcode (s : State) :
    (raiseAccessFault s).rxOpcode = s.rxOpcode := rfl
@[simp] theorem raiseAccessFault_rxAddr (s : State) : (raiseAccessFault s).rxAddr = s.rxAddr := rfl
@[simp] theorem raiseAccessFault_statusIndex (s : State) :
    (raiseAccessFault s).statusIndex = s.statusIndex := rfl
@[simp] theorem raiseAccessFault_phase (s : State) : (raiseAccessFault s).phase = s.phase := rfl
@[simp] theorem raiseAccessFault_txLen (s : State) : (raiseAccessFault s).txLen = s.txLen := rfl
@[simp] theorem raiseAccessFault_txIdx (s : State) : (raiseAccessFault s).txIdx = s.txIdx := rfl
@[simp] theorem raiseAccessFault_transport (s : State) :
    (raiseAccessFault s).transport = s.transport := rfl
@[simp] theorem raiseAccessFault_rdata (s : State) : (raiseAccessFault s).rdata = s.rdata := rfl
@[simp] theorem raiseAccessFault_inputs (s : State) : (raiseAccessFault s).inputs = s.inputs := rfl
@[simp] theorem raiseAccessFault_draws (s : State) : (raiseAccessFault s).draws = s.draws := rfl

/-! ### raiseRejected -/

@[simp] theorem raiseRejected_ctrl (s : State) : (raiseRejected s).ctrl = s.ctrl := rfl
@[simp] theorem raiseRejected_status (s : State) :
    (raiseRejected s).status =
      { s.status with rejected := true } := rfl
@[simp] theorem raiseRejected_opcode (s : State) : (raiseRejected s).opcode = s.opcode := rfl
@[simp] theorem raiseRejected_address (s : State) : (raiseRejected s).address = s.address := rfl
@[simp] theorem raiseRejected_arg (s : State) : (raiseRejected s).arg = s.arg := rfl
@[simp] theorem raiseRejected_bufPtr (s : State) : (raiseRejected s).bufPtr = s.bufPtr := rfl
@[simp] theorem raiseRejected_bufLen (s : State) : (raiseRejected s).bufLen = s.bufLen := rfl
@[simp] theorem raiseRejected_fb (s : State) : (raiseRejected s).fb = s.fb := rfl
@[simp] theorem raiseRejected_crc (s : State) : (raiseRejected s).crc = s.crc := rfl
@[simp] theorem raiseRejected_timeoutPolls (s : State) :
    (raiseRejected s).timeoutPolls = s.timeoutPolls := rfl
@[simp] theorem raiseRejected_idlePolls (s : State) :
    (raiseRejected s).idlePolls = s.idlePolls := rfl
@[simp] theorem raiseRejected_frameLen (s : State) : (raiseRejected s).frameLen = s.frameLen := rfl
@[simp] theorem raiseRejected_rxOpcode (s : State) : (raiseRejected s).rxOpcode = s.rxOpcode := rfl
@[simp] theorem raiseRejected_rxAddr (s : State) : (raiseRejected s).rxAddr = s.rxAddr := rfl
@[simp] theorem raiseRejected_statusIndex (s : State) :
    (raiseRejected s).statusIndex = s.statusIndex := rfl
@[simp] theorem raiseRejected_phase (s : State) : (raiseRejected s).phase = s.phase := rfl
@[simp] theorem raiseRejected_txLen (s : State) : (raiseRejected s).txLen = s.txLen := rfl
@[simp] theorem raiseRejected_txIdx (s : State) : (raiseRejected s).txIdx = s.txIdx := rfl
@[simp] theorem raiseRejected_transport (s : State) :
    (raiseRejected s).transport = s.transport := rfl
@[simp] theorem raiseRejected_rdata (s : State) : (raiseRejected s).rdata = s.rdata := rfl
@[simp] theorem raiseRejected_inputs (s : State) : (raiseRejected s).inputs = s.inputs := rfl
@[simp] theorem raiseRejected_draws (s : State) : (raiseRejected s).draws = s.draws := rfl

/-! ### completeOk -/

@[simp] theorem completeOk_ctrl (s : State) : (completeOk s).ctrl = s.ctrl := rfl
@[simp] theorem completeOk_status (s : State) :
    (completeOk s).status =
      { s.status with busy := false, done := true, err := false, errCode := .noError } := rfl
@[simp] theorem completeOk_opcode (s : State) : (completeOk s).opcode = s.opcode := rfl
@[simp] theorem completeOk_address (s : State) : (completeOk s).address = s.address := rfl
@[simp] theorem completeOk_arg (s : State) : (completeOk s).arg = s.arg := rfl
@[simp] theorem completeOk_bufPtr (s : State) : (completeOk s).bufPtr = s.bufPtr := rfl
@[simp] theorem completeOk_bufLen (s : State) : (completeOk s).bufLen = s.bufLen := rfl
@[simp] theorem completeOk_fb (s : State) : (completeOk s).fb = s.fb := rfl
@[simp] theorem completeOk_crc (s : State) : (completeOk s).crc = s.crc := rfl
@[simp] theorem completeOk_timeoutPolls (s : State) :
    (completeOk s).timeoutPolls = s.timeoutPolls := rfl
@[simp] theorem completeOk_idlePolls (s : State) : (completeOk s).idlePolls = s.idlePolls := rfl
@[simp] theorem completeOk_frameLen (s : State) : (completeOk s).frameLen = s.frameLen := rfl
@[simp] theorem completeOk_rxOpcode (s : State) : (completeOk s).rxOpcode = s.rxOpcode := rfl
@[simp] theorem completeOk_rxAddr (s : State) : (completeOk s).rxAddr = s.rxAddr := rfl
@[simp] theorem completeOk_statusIndex (s : State) :
    (completeOk s).statusIndex = s.statusIndex := rfl
@[simp] theorem completeOk_phase (s : State) : (completeOk s).phase = .idle := rfl
@[simp] theorem completeOk_txLen (s : State) : (completeOk s).txLen = s.txLen := rfl
@[simp] theorem completeOk_txIdx (s : State) : (completeOk s).txIdx = s.txIdx := rfl
@[simp] theorem completeOk_transport (s : State) : (completeOk s).transport = s.transport := rfl
@[simp] theorem completeOk_rdata (s : State) : (completeOk s).rdata = s.rdata := rfl
@[simp] theorem completeOk_inputs (s : State) : (completeOk s).inputs = s.inputs := rfl
@[simp] theorem completeOk_draws (s : State) : (completeOk s).draws = s.draws := rfl

/-! ### completeErr -/

@[simp] theorem completeErr_ctrl (c : ErrCode) (s : State) : (completeErr c s).ctrl = s.ctrl := rfl
@[simp] theorem completeErr_status (c : ErrCode) (s : State) :
    (completeErr c s).status =
      { s.status with busy := false, done := true, err := true, errCode := c } := rfl
@[simp] theorem completeErr_opcode (c : ErrCode) (s : State) :
    (completeErr c s).opcode = s.opcode := rfl
@[simp] theorem completeErr_address (c : ErrCode) (s : State) :
    (completeErr c s).address = s.address := rfl
@[simp] theorem completeErr_arg (c : ErrCode) (s : State) : (completeErr c s).arg = s.arg := rfl
@[simp] theorem completeErr_bufPtr (c : ErrCode) (s : State) :
    (completeErr c s).bufPtr = s.bufPtr := rfl
@[simp] theorem completeErr_bufLen (c : ErrCode) (s : State) :
    (completeErr c s).bufLen = s.bufLen := rfl
@[simp] theorem completeErr_fb (c : ErrCode) (s : State) : (completeErr c s).fb = s.fb := rfl
@[simp] theorem completeErr_crc (c : ErrCode) (s : State) : (completeErr c s).crc = s.crc := rfl
@[simp] theorem completeErr_timeoutPolls (c : ErrCode) (s : State) :
    (completeErr c s).timeoutPolls = s.timeoutPolls := rfl
@[simp] theorem completeErr_idlePolls (c : ErrCode) (s : State) :
    (completeErr c s).idlePolls = s.idlePolls := rfl
@[simp] theorem completeErr_frameLen (c : ErrCode) (s : State) :
    (completeErr c s).frameLen = s.frameLen := rfl
@[simp] theorem completeErr_rxOpcode (c : ErrCode) (s : State) :
    (completeErr c s).rxOpcode = s.rxOpcode := rfl
@[simp] theorem completeErr_rxAddr (c : ErrCode) (s : State) :
    (completeErr c s).rxAddr = s.rxAddr := rfl
@[simp] theorem completeErr_statusIndex (c : ErrCode) (s : State) :
    (completeErr c s).statusIndex = s.statusIndex := rfl
@[simp] theorem completeErr_phase (c : ErrCode) (s : State) :
    (completeErr c s).phase = .idle := rfl
@[simp] theorem completeErr_txLen (c : ErrCode) (s : State) :
    (completeErr c s).txLen = s.txLen := rfl
@[simp] theorem completeErr_txIdx (c : ErrCode) (s : State) :
    (completeErr c s).txIdx = s.txIdx := rfl
@[simp] theorem completeErr_transport (c : ErrCode) (s : State) :
    (completeErr c s).transport = s.transport := rfl
@[simp] theorem completeErr_rdata (c : ErrCode) (s : State) :
    (completeErr c s).rdata = s.rdata := rfl
@[simp] theorem completeErr_inputs (c : ErrCode) (s : State) :
    (completeErr c s).inputs = s.inputs := rfl
@[simp] theorem completeErr_draws (c : ErrCode) (s : State) :
    (completeErr c s).draws = s.draws := rfl

/-! ### accept -/

@[simp] theorem accept_ctrl (s : State) : (accept s).ctrl = s.ctrl := rfl
@[simp] theorem accept_status (s : State) :
    (accept s).status =
      { s.status with done := false, err := false, errCode := .noError, devCode := 0, valid := false, fields := false, accessFault := false, rejected := false } := rfl
@[simp] theorem accept_opcode (s : State) : (accept s).opcode = s.opcode := rfl
@[simp] theorem accept_address (s : State) : (accept s).address = s.address := rfl
@[simp] theorem accept_arg (s : State) : (accept s).arg = s.arg := rfl
@[simp] theorem accept_bufPtr (s : State) : (accept s).bufPtr = s.bufPtr := rfl
@[simp] theorem accept_bufLen (s : State) : (accept s).bufLen = s.bufLen := rfl
@[simp] theorem accept_fb (s : State) : (accept s).fb = s.fb := rfl
@[simp] theorem accept_crc (s : State) : (accept s).crc = s.crc := rfl
@[simp] theorem accept_timeoutPolls (s : State) : (accept s).timeoutPolls = s.timeoutPolls := rfl
@[simp] theorem accept_idlePolls (s : State) : (accept s).idlePolls = s.idlePolls := rfl
@[simp] theorem accept_frameLen (s : State) : (accept s).frameLen = s.frameLen := rfl
@[simp] theorem accept_rxOpcode (s : State) : (accept s).rxOpcode = s.rxOpcode := rfl
@[simp] theorem accept_rxAddr (s : State) : (accept s).rxAddr = s.rxAddr := rfl
@[simp] theorem accept_statusIndex (s : State) : (accept s).statusIndex = s.statusIndex := rfl
@[simp] theorem accept_phase (s : State) : (accept s).phase = s.phase := rfl
@[simp] theorem accept_txLen (s : State) : (accept s).txLen = s.txLen := rfl
@[simp] theorem accept_txIdx (s : State) : (accept s).txIdx = s.txIdx := rfl
@[simp] theorem accept_transport (s : State) : (accept s).transport = s.transport := rfl
@[simp] theorem accept_rdata (s : State) : (accept s).rdata = s.rdata := rfl
@[simp] theorem accept_inputs (s : State) : (accept s).inputs = s.inputs := rfl
@[simp] theorem accept_draws (s : State) : (accept s).draws = s.draws := rfl

/-! ### returnRead -/

@[simp] theorem returnRead_ctrl (v : Word) (s : State) : (returnRead v s).ctrl = s.ctrl := rfl
@[simp] theorem returnRead_status (v : Word) (s : State) :
    (returnRead v s).status = s.status := rfl
@[simp] theorem returnRead_opcode (v : Word) (s : State) :
    (returnRead v s).opcode = s.opcode := rfl
@[simp] theorem returnRead_address (v : Word) (s : State) :
    (returnRead v s).address = s.address := rfl
@[simp] theorem returnRead_arg (v : Word) (s : State) : (returnRead v s).arg = s.arg := rfl
@[simp] theorem returnRead_bufPtr (v : Word) (s : State) :
    (returnRead v s).bufPtr = s.bufPtr := rfl
@[simp] theorem returnRead_bufLen (v : Word) (s : State) :
    (returnRead v s).bufLen = s.bufLen := rfl
@[simp] theorem returnRead_fb (v : Word) (s : State) : (returnRead v s).fb = s.fb := rfl
@[simp] theorem returnRead_crc (v : Word) (s : State) : (returnRead v s).crc = s.crc := rfl
@[simp] theorem returnRead_timeoutPolls (v : Word) (s : State) :
    (returnRead v s).timeoutPolls = s.timeoutPolls := rfl
@[simp] theorem returnRead_idlePolls (v : Word) (s : State) :
    (returnRead v s).idlePolls = s.idlePolls := rfl
@[simp] theorem returnRead_frameLen (v : Word) (s : State) :
    (returnRead v s).frameLen = s.frameLen := rfl
@[simp] theorem returnRead_rxOpcode (v : Word) (s : State) :
    (returnRead v s).rxOpcode = s.rxOpcode := rfl
@[simp] theorem returnRead_rxAddr (v : Word) (s : State) :
    (returnRead v s).rxAddr = s.rxAddr := rfl
@[simp] theorem returnRead_statusIndex (v : Word) (s : State) :
    (returnRead v s).statusIndex = s.statusIndex := rfl
@[simp] theorem returnRead_phase (v : Word) (s : State) : (returnRead v s).phase = s.phase := rfl
@[simp] theorem returnRead_txLen (v : Word) (s : State) : (returnRead v s).txLen = s.txLen := rfl
@[simp] theorem returnRead_txIdx (v : Word) (s : State) : (returnRead v s).txIdx = s.txIdx := rfl
@[simp] theorem returnRead_transport (v : Word) (s : State) :
    (returnRead v s).transport = s.transport := rfl
@[simp] theorem returnRead_rdata (v : Word) (s : State) : (returnRead v s).rdata = v := rfl
@[simp] theorem returnRead_inputs (v : Word) (s : State) :
    (returnRead v s).inputs = s.inputs := rfl
@[simp] theorem returnRead_draws (v : Word) (s : State) : (returnRead v s).draws = s.draws := rfl

/-! ### clearTransport -/

@[simp] theorem clearTransport_ctrl (s : State) : (clearTransport s).ctrl = s.ctrl := rfl
@[simp] theorem clearTransport_status (s : State) : (clearTransport s).status = s.status := rfl
@[simp] theorem clearTransport_opcode (s : State) : (clearTransport s).opcode = s.opcode := rfl
@[simp] theorem clearTransport_address (s : State) : (clearTransport s).address = s.address := rfl
@[simp] theorem clearTransport_arg (s : State) : (clearTransport s).arg = s.arg := rfl
@[simp] theorem clearTransport_bufPtr (s : State) : (clearTransport s).bufPtr = s.bufPtr := rfl
@[simp] theorem clearTransport_bufLen (s : State) : (clearTransport s).bufLen = s.bufLen := rfl
@[simp] theorem clearTransport_fb (s : State) : (clearTransport s).fb = s.fb := rfl
@[simp] theorem clearTransport_crc (s : State) : (clearTransport s).crc = s.crc := rfl
@[simp] theorem clearTransport_timeoutPolls (s : State) :
    (clearTransport s).timeoutPolls = s.timeoutPolls := rfl
@[simp] theorem clearTransport_idlePolls (s : State) :
    (clearTransport s).idlePolls = s.idlePolls := rfl
@[simp] theorem clearTransport_frameLen (s : State) :
    (clearTransport s).frameLen = s.frameLen := rfl
@[simp] theorem clearTransport_rxOpcode (s : State) :
    (clearTransport s).rxOpcode = s.rxOpcode := rfl
@[simp] theorem clearTransport_rxAddr (s : State) : (clearTransport s).rxAddr = s.rxAddr := rfl
@[simp] theorem clearTransport_statusIndex (s : State) :
    (clearTransport s).statusIndex = s.statusIndex := rfl
@[simp] theorem clearTransport_phase (s : State) : (clearTransport s).phase = s.phase := rfl
@[simp] theorem clearTransport_txLen (s : State) : (clearTransport s).txLen = s.txLen := rfl
@[simp] theorem clearTransport_txIdx (s : State) : (clearTransport s).txIdx = s.txIdx := rfl
@[simp] theorem clearTransport_transport (s : State) :
    (clearTransport s).transport = { s.transport with rx := [], txq := [] } := rfl
@[simp] theorem clearTransport_rdata (s : State) : (clearTransport s).rdata = s.rdata := rfl
@[simp] theorem clearTransport_inputs (s : State) : (clearTransport s).inputs = s.inputs := rfl
@[simp] theorem clearTransport_draws (s : State) : (clearTransport s).draws = s.draws := rfl

/-! ### enterRx -/

@[simp] theorem enterRx_ctrl (s : State) : (enterRx s).ctrl = s.ctrl := rfl
@[simp] theorem enterRx_status (s : State) : (enterRx s).status = s.status := rfl
@[simp] theorem enterRx_opcode (s : State) : (enterRx s).opcode = s.opcode := rfl
@[simp] theorem enterRx_address (s : State) : (enterRx s).address = s.address := rfl
@[simp] theorem enterRx_arg (s : State) : (enterRx s).arg = s.arg := rfl
@[simp] theorem enterRx_bufPtr (s : State) : (enterRx s).bufPtr = s.bufPtr := rfl
@[simp] theorem enterRx_bufLen (s : State) : (enterRx s).bufLen = 0 := rfl
@[simp] theorem enterRx_fb (s : State) : (enterRx s).fb = s.fb := rfl
@[simp] theorem enterRx_crc (s : State) : (enterRx s).crc = s.crc := rfl
@[simp] theorem enterRx_timeoutPolls (s : State) : (enterRx s).timeoutPolls = s.timeoutPolls := rfl
@[simp] theorem enterRx_idlePolls (s : State) : (enterRx s).idlePolls = 0 := rfl
@[simp] theorem enterRx_frameLen (s : State) : (enterRx s).frameLen = 0 := rfl
@[simp] theorem enterRx_rxOpcode (s : State) : (enterRx s).rxOpcode = s.rxOpcode := rfl
@[simp] theorem enterRx_rxAddr (s : State) : (enterRx s).rxAddr = s.rxAddr := rfl
@[simp] theorem enterRx_statusIndex (s : State) : (enterRx s).statusIndex = s.statusIndex := rfl
@[simp] theorem enterRx_phase (s : State) : (enterRx s).phase = .rx := rfl
@[simp] theorem enterRx_txLen (s : State) : (enterRx s).txLen = s.txLen := rfl
@[simp] theorem enterRx_txIdx (s : State) : (enterRx s).txIdx = s.txIdx := rfl
@[simp] theorem enterRx_transport (s : State) : (enterRx s).transport = s.transport := rfl
@[simp] theorem enterRx_rdata (s : State) : (enterRx s).rdata = s.rdata := rfl
@[simp] theorem enterRx_inputs (s : State) : (enterRx s).inputs = s.inputs := rfl
@[simp] theorem enterRx_draws (s : State) : (enterRx s).draws = s.draws := rfl

/-! ### tFail -/

@[simp] theorem tFail_ctrl (c : ErrCode) (s : State) : (tFail c s).ctrl = s.ctrl := rfl
@[simp] theorem tFail_status (c : ErrCode) (s : State) :
    (tFail c s).status =
      { s.status with busy := false, done := true, err := true, errCode := c } := rfl
@[simp] theorem tFail_opcode (c : ErrCode) (s : State) : (tFail c s).opcode = s.opcode := rfl
@[simp] theorem tFail_address (c : ErrCode) (s : State) : (tFail c s).address = s.address := rfl
@[simp] theorem tFail_arg (c : ErrCode) (s : State) : (tFail c s).arg = s.arg := rfl
@[simp] theorem tFail_bufPtr (c : ErrCode) (s : State) : (tFail c s).bufPtr = 0 := rfl
@[simp] theorem tFail_bufLen (c : ErrCode) (s : State) : (tFail c s).bufLen = s.bufLen := rfl
@[simp] theorem tFail_fb (c : ErrCode) (s : State) : (tFail c s).fb = s.fb := rfl
@[simp] theorem tFail_crc (c : ErrCode) (s : State) : (tFail c s).crc = s.crc := rfl
@[simp] theorem tFail_timeoutPolls (c : ErrCode) (s : State) :
    (tFail c s).timeoutPolls = s.timeoutPolls := rfl
@[simp] theorem tFail_idlePolls (c : ErrCode) (s : State) :
    (tFail c s).idlePolls = s.idlePolls := rfl
@[simp] theorem tFail_frameLen (c : ErrCode) (s : State) : (tFail c s).frameLen = s.frameLen := rfl
@[simp] theorem tFail_rxOpcode (c : ErrCode) (s : State) : (tFail c s).rxOpcode = s.rxOpcode := rfl
@[simp] theorem tFail_rxAddr (c : ErrCode) (s : State) : (tFail c s).rxAddr = s.rxAddr := rfl
@[simp] theorem tFail_statusIndex (c : ErrCode) (s : State) :
    (tFail c s).statusIndex = s.statusIndex := rfl
@[simp] theorem tFail_phase (c : ErrCode) (s : State) : (tFail c s).phase = .idle := rfl
@[simp] theorem tFail_txLen (c : ErrCode) (s : State) : (tFail c s).txLen = s.txLen := rfl
@[simp] theorem tFail_txIdx (c : ErrCode) (s : State) : (tFail c s).txIdx = s.txIdx := rfl
@[simp] theorem tFail_transport (c : ErrCode) (s : State) :
    (tFail c s).transport = s.transport := rfl
@[simp] theorem tFail_rdata (c : ErrCode) (s : State) : (tFail c s).rdata = s.rdata := rfl
@[simp] theorem tFail_inputs (c : ErrCode) (s : State) : (tFail c s).inputs = s.inputs := rfl
@[simp] theorem tFail_draws (c : ErrCode) (s : State) : (tFail c s).draws = s.draws := rfl

/-! ### succeed -/

@[simp] theorem succeed_ctrl (s : State) : (succeed s).ctrl = s.ctrl := rfl
@[simp] theorem succeed_status (s : State) :
    (succeed s).status =
      { s.status with valid := true, busy := false, done := true, err := false, errCode := .noError } := rfl
@[simp] theorem succeed_opcode (s : State) : (succeed s).opcode = s.opcode := rfl
@[simp] theorem succeed_address (s : State) : (succeed s).address = s.address := rfl
@[simp] theorem succeed_arg (s : State) : (succeed s).arg = s.arg := rfl
@[simp] theorem succeed_bufPtr (s : State) : (succeed s).bufPtr = 0 := rfl
@[simp] theorem succeed_bufLen (s : State) : (succeed s).bufLen = s.bufLen := rfl
@[simp] theorem succeed_fb (s : State) : (succeed s).fb = s.fb := rfl
@[simp] theorem succeed_crc (s : State) : (succeed s).crc = s.crc := rfl
@[simp] theorem succeed_timeoutPolls (s : State) : (succeed s).timeoutPolls = s.timeoutPolls := rfl
@[simp] theorem succeed_idlePolls (s : State) : (succeed s).idlePolls = s.idlePolls := rfl
@[simp] theorem succeed_frameLen (s : State) : (succeed s).frameLen = s.frameLen := rfl
@[simp] theorem succeed_rxOpcode (s : State) : (succeed s).rxOpcode = s.rxOpcode := rfl
@[simp] theorem succeed_rxAddr (s : State) : (succeed s).rxAddr = s.rxAddr := rfl
@[simp] theorem succeed_statusIndex (s : State) : (succeed s).statusIndex = s.statusIndex := rfl
@[simp] theorem succeed_phase (s : State) : (succeed s).phase = .idle := rfl
@[simp] theorem succeed_txLen (s : State) : (succeed s).txLen = s.txLen := rfl
@[simp] theorem succeed_txIdx (s : State) : (succeed s).txIdx = s.txIdx := rfl
@[simp] theorem succeed_transport (s : State) :
    (succeed s).transport = { s.transport with rx := [], txq := [] } := rfl
@[simp] theorem succeed_rdata (s : State) : (succeed s).rdata = s.rdata := rfl
@[simp] theorem succeed_inputs (s : State) : (succeed s).inputs = s.inputs := rfl
@[simp] theorem succeed_draws (s : State) : (succeed s).draws = s.draws := rfl

/-! ### arrive -/

@[simp] theorem arrive_ctrl (bs : List Byte) (s : State) : (arrive bs s).ctrl = s.ctrl := rfl
@[simp] theorem arrive_status (bs : List Byte) (s : State) : (arrive bs s).status = s.status := rfl
@[simp] theorem arrive_opcode (bs : List Byte) (s : State) : (arrive bs s).opcode = s.opcode := rfl
@[simp] theorem arrive_address (bs : List Byte) (s : State) :
    (arrive bs s).address = s.address := rfl
@[simp] theorem arrive_arg (bs : List Byte) (s : State) : (arrive bs s).arg = s.arg := rfl
@[simp] theorem arrive_bufPtr (bs : List Byte) (s : State) : (arrive bs s).bufPtr = s.bufPtr := rfl
@[simp] theorem arrive_bufLen (bs : List Byte) (s : State) : (arrive bs s).bufLen = s.bufLen := rfl
@[simp] theorem arrive_fb (bs : List Byte) (s : State) : (arrive bs s).fb = s.fb := rfl
@[simp] theorem arrive_crc (bs : List Byte) (s : State) : (arrive bs s).crc = s.crc := rfl
@[simp] theorem arrive_timeoutPolls (bs : List Byte) (s : State) :
    (arrive bs s).timeoutPolls = s.timeoutPolls := rfl
@[simp] theorem arrive_idlePolls (bs : List Byte) (s : State) :
    (arrive bs s).idlePolls = s.idlePolls := rfl
@[simp] theorem arrive_frameLen (bs : List Byte) (s : State) :
    (arrive bs s).frameLen = s.frameLen := rfl
@[simp] theorem arrive_rxOpcode (bs : List Byte) (s : State) :
    (arrive bs s).rxOpcode = s.rxOpcode := rfl
@[simp] theorem arrive_rxAddr (bs : List Byte) (s : State) : (arrive bs s).rxAddr = s.rxAddr := rfl
@[simp] theorem arrive_statusIndex (bs : List Byte) (s : State) :
    (arrive bs s).statusIndex = s.statusIndex := rfl
@[simp] theorem arrive_phase (bs : List Byte) (s : State) : (arrive bs s).phase = s.phase := rfl
@[simp] theorem arrive_txLen (bs : List Byte) (s : State) : (arrive bs s).txLen = s.txLen := rfl
@[simp] theorem arrive_txIdx (bs : List Byte) (s : State) : (arrive bs s).txIdx = s.txIdx := rfl
@[simp] theorem arrive_transport (bs : List Byte) (s : State) :
    (arrive bs s).transport = { s.transport with rx := s.transport.rx ++ bs } := rfl
@[simp] theorem arrive_rdata (bs : List Byte) (s : State) : (arrive bs s).rdata = s.rdata := rfl
@[simp] theorem arrive_inputs (bs : List Byte) (s : State) : (arrive bs s).inputs = s.inputs := rfl
@[simp] theorem arrive_draws (bs : List Byte) (s : State) : (arrive bs s).draws = s.draws := rfl

/-! ### schedule -/

@[simp] theorem schedule_ctrl (e : Event) (s : State) : (schedule e s).ctrl = s.ctrl := rfl
@[simp] theorem schedule_status (e : Event) (s : State) : (schedule e s).status = s.status := rfl
@[simp] theorem schedule_opcode (e : Event) (s : State) : (schedule e s).opcode = s.opcode := rfl
@[simp] theorem schedule_address (e : Event) (s : State) :
    (schedule e s).address = s.address := rfl
@[simp] theorem schedule_arg (e : Event) (s : State) : (schedule e s).arg = s.arg := rfl
@[simp] theorem schedule_bufPtr (e : Event) (s : State) : (schedule e s).bufPtr = s.bufPtr := rfl
@[simp] theorem schedule_bufLen (e : Event) (s : State) : (schedule e s).bufLen = s.bufLen := rfl
@[simp] theorem schedule_fb (e : Event) (s : State) : (schedule e s).fb = s.fb := rfl
@[simp] theorem schedule_crc (e : Event) (s : State) : (schedule e s).crc = s.crc := rfl
@[simp] theorem schedule_timeoutPolls (e : Event) (s : State) :
    (schedule e s).timeoutPolls = s.timeoutPolls := rfl
@[simp] theorem schedule_idlePolls (e : Event) (s : State) :
    (schedule e s).idlePolls = s.idlePolls := rfl
@[simp] theorem schedule_frameLen (e : Event) (s : State) :
    (schedule e s).frameLen = s.frameLen := rfl
@[simp] theorem schedule_rxOpcode (e : Event) (s : State) :
    (schedule e s).rxOpcode = s.rxOpcode := rfl
@[simp] theorem schedule_rxAddr (e : Event) (s : State) : (schedule e s).rxAddr = s.rxAddr := rfl
@[simp] theorem schedule_statusIndex (e : Event) (s : State) :
    (schedule e s).statusIndex = s.statusIndex := rfl
@[simp] theorem schedule_phase (e : Event) (s : State) : (schedule e s).phase = s.phase := rfl
@[simp] theorem schedule_txLen (e : Event) (s : State) : (schedule e s).txLen = s.txLen := rfl
@[simp] theorem schedule_txIdx (e : Event) (s : State) : (schedule e s).txIdx = s.txIdx := rfl
@[simp] theorem schedule_transport (e : Event) (s : State) :
    (schedule e s).transport = s.transport := rfl
@[simp] theorem schedule_rdata (e : Event) (s : State) : (schedule e s).rdata = s.rdata := rfl
@[simp] theorem schedule_inputs (e : Event) (s : State) :
    (schedule e s).inputs = e :: s.inputs := rfl
@[simp] theorem schedule_draws (e : Event) (s : State) : (schedule e s).draws = s.draws := rfl

/-! ### refuseAccess: ACCESS_FAULT, and a read returns 0 (R100) -/

@[simp] theorem refuseAccess_ctrl (w : Bool) (s : State) :
    (refuseAccess w s).ctrl = s.ctrl := by cases w <;> rfl
@[simp] theorem refuseAccess_status (w : Bool) (s : State) :
    (refuseAccess w s).status = { s.status with accessFault := true } := by cases w <;> rfl
@[simp] theorem refuseAccess_opcode (w : Bool) (s : State) :
    (refuseAccess w s).opcode = s.opcode := by cases w <;> rfl
@[simp] theorem refuseAccess_address (w : Bool) (s : State) :
    (refuseAccess w s).address = s.address := by cases w <;> rfl
@[simp] theorem refuseAccess_arg (w : Bool) (s : State) :
    (refuseAccess w s).arg = s.arg := by cases w <;> rfl
@[simp] theorem refuseAccess_bufPtr (w : Bool) (s : State) :
    (refuseAccess w s).bufPtr = s.bufPtr := by cases w <;> rfl
@[simp] theorem refuseAccess_bufLen (w : Bool) (s : State) :
    (refuseAccess w s).bufLen = s.bufLen := by cases w <;> rfl
@[simp] theorem refuseAccess_fb (w : Bool) (s : State) :
    (refuseAccess w s).fb = s.fb := by cases w <;> rfl
@[simp] theorem refuseAccess_crc (w : Bool) (s : State) :
    (refuseAccess w s).crc = s.crc := by cases w <;> rfl
@[simp] theorem refuseAccess_timeoutPolls (w : Bool) (s : State) :
    (refuseAccess w s).timeoutPolls = s.timeoutPolls := by cases w <;> rfl
@[simp] theorem refuseAccess_idlePolls (w : Bool) (s : State) :
    (refuseAccess w s).idlePolls = s.idlePolls := by cases w <;> rfl
@[simp] theorem refuseAccess_frameLen (w : Bool) (s : State) :
    (refuseAccess w s).frameLen = s.frameLen := by cases w <;> rfl
@[simp] theorem refuseAccess_rxOpcode (w : Bool) (s : State) :
    (refuseAccess w s).rxOpcode = s.rxOpcode := by cases w <;> rfl
@[simp] theorem refuseAccess_rxAddr (w : Bool) (s : State) :
    (refuseAccess w s).rxAddr = s.rxAddr := by cases w <;> rfl
@[simp] theorem refuseAccess_statusIndex (w : Bool) (s : State) :
    (refuseAccess w s).statusIndex = s.statusIndex := by cases w <;> rfl
@[simp] theorem refuseAccess_phase (w : Bool) (s : State) :
    (refuseAccess w s).phase = s.phase := by cases w <;> rfl
@[simp] theorem refuseAccess_txLen (w : Bool) (s : State) :
    (refuseAccess w s).txLen = s.txLen := by cases w <;> rfl
@[simp] theorem refuseAccess_txIdx (w : Bool) (s : State) :
    (refuseAccess w s).txIdx = s.txIdx := by cases w <;> rfl
@[simp] theorem refuseAccess_transport (w : Bool) (s : State) :
    (refuseAccess w s).transport = s.transport := by cases w <;> rfl
@[simp] theorem refuseAccess_rdata (w : Bool) (s : State) :
    (refuseAccess w s).rdata = if w then s.rdata else 0 := by cases w <;> rfl
@[simp] theorem refuseAccess_inputs (w : Bool) (s : State) :
    (refuseAccess w s).inputs = s.inputs := by cases w <;> rfl
@[simp] theorem refuseAccess_draws (w : Bool) (s : State) :
    (refuseAccess w s).draws = s.draws := by cases w <;> rfl

/-! ### engineReset: the engine's fields take their reset values (R220), the others stay (R221) -/

@[simp] theorem engineReset_ctrl (s : State) : (engineReset s).ctrl = State.reset.ctrl := rfl
@[simp] theorem engineReset_status (s : State) : (engineReset s).status = State.reset.status := rfl
@[simp] theorem engineReset_opcode (s : State) : (engineReset s).opcode = State.reset.opcode := rfl
@[simp] theorem engineReset_address (s : State) : (engineReset s).address = State.reset.address := rfl
@[simp] theorem engineReset_arg (s : State) : (engineReset s).arg = State.reset.arg := rfl
@[simp] theorem engineReset_bufPtr (s : State) : (engineReset s).bufPtr = State.reset.bufPtr := rfl
@[simp] theorem engineReset_bufLen (s : State) : (engineReset s).bufLen = State.reset.bufLen := rfl
@[simp] theorem engineReset_fb (s : State) : (engineReset s).fb = State.reset.fb := rfl
@[simp] theorem engineReset_crc (s : State) : (engineReset s).crc = State.reset.crc := rfl
@[simp] theorem engineReset_timeoutPolls (s : State) : (engineReset s).timeoutPolls = State.reset.timeoutPolls := rfl
@[simp] theorem engineReset_idlePolls (s : State) : (engineReset s).idlePolls = State.reset.idlePolls := rfl
@[simp] theorem engineReset_frameLen (s : State) : (engineReset s).frameLen = State.reset.frameLen := rfl
@[simp] theorem engineReset_rxOpcode (s : State) : (engineReset s).rxOpcode = State.reset.rxOpcode := rfl
@[simp] theorem engineReset_rxAddr (s : State) : (engineReset s).rxAddr = State.reset.rxAddr := rfl
@[simp] theorem engineReset_statusIndex (s : State) : (engineReset s).statusIndex = State.reset.statusIndex := rfl
@[simp] theorem engineReset_phase (s : State) : (engineReset s).phase = State.reset.phase := rfl
@[simp] theorem engineReset_txLen (s : State) : (engineReset s).txLen = State.reset.txLen := rfl
@[simp] theorem engineReset_txIdx (s : State) : (engineReset s).txIdx = State.reset.txIdx := rfl
@[simp] theorem engineReset_transport (s : State) : (engineReset s).transport = s.transport := rfl
@[simp] theorem engineReset_rdata (s : State) : (engineReset s).rdata = s.rdata := rfl
@[simp] theorem engineReset_inputs (s : State) : (engineReset s).inputs = s.inputs := rfl
@[simp] theorem engineReset_draws (s : State) : (engineReset s).draws = s.draws := rfl

end Sys2Proof.Machine
end

