-- ==== Sys2Proof/Laws/Ops.lean ====
section
/-! SUPPORT. What each shared operation can do, said once: STATUS, the frame buffer's reads and
writes, a command, a locked write. -/

namespace Sys2Proof.Machine

/-! ### STATUS -/

/-- ERR_CODE stands at bits 11:8 of STATUS (R27). -/
theorem statusWord_errCode (st : Status) :
    (statusWord st).extractLsb' 8 4 = errCodeBits st.errCode := by
  unfold statusWord
  generalize statusFlagBits st = f
  generalize errCodeBits st.errCode = e
  apply BitVec.eq_of_getLsbD_eq
  intro i hi
  have h : i = 0 ∨ i = 1 ∨ i = 2 ∨ i = 3 := by omega
  rcases h with rfl | rfl | rfl | rfl <;>
    simp only [BitVec.getLsbD_extractLsb', BitVec.getLsbD_append] <;> simp

/-! ### Reads of FB -/

/-- A listed byte is read as it stands, and the state is unchanged. -/
theorem fbRead_listed {i : Nat} {s : State} {b : Byte} (hi : i < Config.fbCap)
    (h : Memory.get s.fb i = some b) : fbRead i s = .ok (b, s) := by
  simp [fbRead, hi, h]

/-- A byte not written since reset reads as the next free draw. -/
theorem fbRead_unlisted {i : Nat} {s : State} (hi : i < Config.fbCap)
    (h : Memory.get s.fb i = none) :
    fbRead i s = .ok (Config.freeByte s.draws, { s with draws := s.draws + 1 }) := by
  simp [fbRead, hi, h, drawByte]

/-- A read inside FB answers, and changes nothing but the draw counter. -/
theorem fbRead_total {i : Nat} (s : State) (hi : i < Config.fbCap) :
    ∃ b d, fbRead i s = .ok (b, { s with draws := d }) ∧
      ∀ c, Memory.get s.fb i = some c → b = c ∧ d = s.draws := by
  cases h : Memory.get s.fb i with
  | some c =>
    refine ⟨c, s.draws, by rw [fbRead_listed hi h], ?_⟩
    rintro c' ⟨⟩
    exact ⟨rfl, rfl⟩
  | none => exact ⟨_, _, fbRead_unlisted hi h, by simp⟩

/-- What a read can do: only the draw counter can change. -/
theorem fbRead_ok {i : Nat} {s t : State} {b : Byte} (h : fbRead i s = .ok (b, t)) :
    i < Config.fbCap ∧ ∃ d, t = { s with draws := d } := by
  by_cases hi : i < Config.fbCap
  · obtain ⟨b', d, e, -⟩ := fbRead_total s hi
    rw [e] at h
    cases h
    exact ⟨hi, d, rfl⟩
  · simp [fbRead, hi] at h

/-- Consecutive listed bytes are read as they stand, and the state is unchanged. -/
theorem fbReadRange_listed (f : List Byte) (i : Nat) (s : State)
    (hi : i + f.length ≤ Config.fbCap)
    (h : ∀ k (hk : k < f.length), Memory.get s.fb (i + k) = some f[k]) :
    fbReadRange i f.length s = .ok (f, s) := by
  induction f generalizing i with
  | nil => rfl
  | cons b f ih =>
    simp only [List.length_cons] at hi
    have h0 : Memory.get s.fb i = some b := h 0 (by simp)
    have hr : fbReadRange (i + 1) f.length s = .ok (f, s) := by
      refine ih (i + 1) (by omega) fun k hk => ?_
      rw [show i + 1 + k = i + (k + 1) by omega]
      exact h (k + 1) (by simpa using hk)
    simp [fbReadRange, fbRead_listed (by omega : i < Config.fbCap) h0, hr, bind, Except.bind]

/-- A range inside FB is read to the full, the listed bytes as they stand, and nothing changes but
the draw counter. -/
theorem fbReadRange_total (n i : Nat) (s : State) (hi : i + n ≤ Config.fbCap) :
    ∃ bs d, fbReadRange i n s = .ok (bs, { s with draws := d }) ∧ bs.length = n ∧
      ∀ k b, k < n → Memory.get s.fb (i + k) = some b → bs[k]? = some b := by
  induction n generalizing i s with
  | zero => exact ⟨[], s.draws, rfl, rfl, by simp⟩
  | succ n ih =>
    obtain ⟨b, d, e, hb⟩ := fbRead_total (i := i) s (by omega)
    obtain ⟨bs, d', e', hl, hbs⟩ := ih (i + 1) { s with draws := d } (by omega)
    refine ⟨b :: bs, d', by simp [fbReadRange, e, e', bind, Except.bind], by simp [hl], ?_⟩
    intro k c hk hc
    cases k with
    | zero => simpa using (hb c hc).1
    | succ k =>
      simpa using hbs k c (by omega) (by rwa [show i + 1 + k = i + (k + 1) by omega])

/-- What a range read can do. -/
theorem fbReadRange_ok {n i : Nat} {s t : State} {bs : List Byte}
    (h : fbReadRange i n s = .ok (bs, t)) : ∃ d, t = { s with draws := d } := by
  induction n generalizing i s t bs with
  | zero => cases h; exact ⟨_, rfl⟩
  | succ n ih =>
    simp only [fbReadRange, bind, Except.bind] at h
    split at h
    · cases h
    · rename_i v e
      obtain ⟨b, u⟩ := v
      obtain ⟨-, d, rfl⟩ := fbRead_ok e
      dsimp only at h
      split at h
      · cases h
      · rename_i v' e'
        obtain ⟨bs', u'⟩ := v'
        obtain ⟨d', rfl⟩ := ih e'
        cases h
        exact ⟨d', rfl⟩

/-! ### Writes of FB -/

theorem fbWrite_total {i : Nat} (b : Byte) (s : State) (hi : i < Config.fbCap) :
    fbWrite i b s = .ok { s with fb := Memory.set s.fb i b } := by simp [fbWrite, hi]

/-- What a write can do: only FB changes, at its index. -/
theorem fbWrite_ok {i : Nat} {b : Byte} {s t : State} (h : fbWrite i b s = .ok t) :
    i < Config.fbCap ∧ t = { s with fb := Memory.set s.fb i b } := by
  by_cases hi : i < Config.fbCap
  · rw [fbWrite_total b s hi] at h
    cases h
    exact ⟨hi, rfl⟩
  · simp [fbWrite, hi] at h

/-- A range write inside FB answers: only FB changes, the written bytes stand in it, every other
byte is as before, and the canonical form is kept. -/
theorem fbWriteRange_total (bs : List Byte) (i : Nat) (s : State)
    (hi : i + bs.length ≤ Config.fbCap) :
    ∃ m, fbWriteRange i bs s = .ok { s with fb := m } ∧
      (∀ k (hk : k < bs.length), Memory.get m (i + k) = some bs[k]) ∧
      (∀ j, j < i ∨ i + bs.length ≤ j → Memory.get m j = Memory.get s.fb j) ∧
      (Memory.wf s.fb → Memory.wf m) := by
  induction bs generalizing i s with
  | nil => exact ⟨s.fb, rfl, by simp, fun _ _ => rfl, id⟩
  | cons b bs ih =>
    simp only [List.length_cons] at hi
    obtain ⟨m, e, hin, hout, hwf⟩ :=
      ih (i + 1) { s with fb := Memory.set s.fb i b } (by omega)
    refine ⟨m, ?_, ?_, ?_, fun h => hwf (Memory.set_wf _ _ _ (by omega) h)⟩
    · simp [fbWriteRange, fbWrite_total b s (by omega : i < Config.fbCap), e, bind, Except.bind]
    · intro k hk
      cases k with
      | zero =>
        rw [Nat.add_zero, hout i (by omega)]
        simp [Memory.get_set]
      | succ k =>
        rw [show i + (k + 1) = i + 1 + k by omega]
        exact hin k (by simpa using hk)
    · intro j hj
      rw [hout j (by simp only [List.length_cons] at hj; omega)]
      simp only [List.length_cons] at hj
      simp only [Memory.get_set]
      split
      · omega
      · rfl

/-- A range write that answers was inside FB, or wrote nothing. -/
theorem fbWriteRange_ok {bs : List Byte} {i : Nat} {s t : State}
    (h : fbWriteRange i bs s = .ok t) :
    i + bs.length ≤ Config.fbCap ∨ bs = [] := by
  induction bs generalizing i s with
  | nil => exact .inr rfl
  | cons b bs ih =>
    simp only [fbWriteRange, bind, Except.bind] at h
    split at h
    · cases h
    · rename_i u e
      obtain ⟨hi, rfl⟩ := fbWrite_ok e
      left
      rcases ih h with h | rfl
      · simp only [List.length_cons]; omega
      · simp only [List.length_cons, List.length_nil]; omega

/-! ### Commands and locked writes -/

/-- A command while BUSY is rejected (R108). -/
theorem runCommand_busy {body : State → Except Fault State} {s : State}
    (h : s.status.busy = true) : runCommand body s = .next (raiseRejected s) := by
  simp [runCommand, h]

/-- A command while BUSY = 0 is accepted and run (R106). -/
theorem runCommand_idle {body : State → Except Fault State} {s : State}
    (h : s.status.busy = false) : runCommand body s = toOutcome (body (accept s)) := by
  simp [runCommand, h]

/-- The next states a command can lead to. -/
theorem runCommand_next {body : State → Except Fault State} {s t : State}
    (h : runCommand body s = .next t) :
    (s.status.busy = true ∧ t = raiseRejected s) ∨
      (s.status.busy = false ∧ body (accept s) = .ok t) := by
  cases hb : s.status.busy with
  | true =>
    rw [runCommand_busy hb] at h
    cases h
    exact .inl ⟨rfl, rfl⟩
  | false =>
    rw [runCommand_idle hb] at h
    cases e : body (accept s) with
    | error f => simp [e, toOutcome] at h
    | ok u =>
      simp only [e, toOutcome] at h
      cases h
      exact .inr ⟨rfl, rfl⟩

/-- A write to a register other than CMD is refused while BUSY (R104). -/
theorem lockedWrite_busy {body : State → Except Fault State} {s : State}
    (h : s.status.busy = true) : lockedWrite body s = .next (raiseAccessFault s) := by
  simp [lockedWrite, h]

theorem lockedWrite_idle {body : State → Except Fault State} {s : State}
    (h : s.status.busy = false) : lockedWrite body s = toOutcome (body s) := by
  simp [lockedWrite, h]

/-- The next states a register write can lead to. -/
theorem lockedWrite_next {body : State → Except Fault State} {s t : State}
    (h : lockedWrite body s = .next t) :
    (s.status.busy = true ∧ t = raiseAccessFault s) ∨
      (s.status.busy = false ∧ body s = .ok t) := by
  cases hb : s.status.busy with
  | true =>
    rw [lockedWrite_busy hb] at h
    cases h
    exact .inl ⟨rfl, rfl⟩
  | false =>
    rw [lockedWrite_idle hb] at h
    cases e : body s with
    | error f => simp [e, toOutcome] at h
    | ok u =>
      simp only [e, toOutcome] at h
      cases h
      exact .inr ⟨rfl, rfl⟩

/-- The next state of an outcome made from a result is the result's. -/
theorem toOutcome_next {r : Except Fault State} {t : State} (h : toOutcome r = .next t) :
    r = .ok t := by
  cases r with
  | error f => cases h
  | ok u => cases h; rfl

end Sys2Proof.Machine
end

