-- ==== Sys2Proof/Laws/Codec.lean ====
section
/-! SUPPORT. What the codec's parts can do (42_frame_codec.md): each answers on every state whose
lengths are in range, and changes only the state its rule names. -/

namespace Sys2Proof.Machine

/-! ### Little-endian assembly and the checksum -/

@[simp] theorem le16_lo8_hi8 (v : BitVec 16) : le16 (lo8 v) (hi8 v) = v := by
  apply BitVec.eq_of_getLsbD_eq
  intro i hi
  simp only [le16, lo8, hi8, BitVec.getLsbD_append, BitVec.getLsbD_extractLsb']
  split
  · simp [*]
  · simp [show i - 8 < 8 by omega, show 8 + (i - 8) = i by omega]

/-- R75: L is its two bytes, the low one first. -/
theorem le16_toNat (lo hi : Byte) : (le16 lo hi).toNat = lo.toNat + 256 * hi.toNat := by
  have := lo.isLt
  simp only [le16, BitVec.toNat_append]
  rw [← Nat.shiftLeft_add_eq_or_of_lt this, Nat.shiftLeft_eq]
  omega

/-- The 17-bit size does not wrap: it is L + 4 (R76). -/
theorem expectedSize_toNat (lo hi : Byte) : (expectedSize lo hi).toNat = (le16 lo hi).toNat + 4 := by
  have := (le16 lo hi).isLt
  simp [expectedSize, BitVec.toNat_add, BitVec.toNat_setWidth]
  omega

theorem crcSeq_append (c : BitVec 16) (as bs : List Byte) :
    crcSeq c (as ++ bs) = crcSeq (crcSeq c as) bs := by
  induction as generalizing c with
  | nil => rfl
  | cons a as ih => exact ih _

@[simp] theorem buildRequest_length (op : Byte) (addr : BitVec 16) (arg : List Byte) :
    (buildRequest op addr arg).length = arg.length + 9 := by
  simp [buildRequest, requestBody]

/-! ### The checks of DECODE and of a complete response -/

theorem headerMatches_total (s : State) :
    ∃ g d, headerMatches s = .ok (g, { s with draws := d }) := by
  obtain ⟨b0, d0, e0, -⟩ := fbRead_total (i := 0) s (by decide)
  obtain ⟨b1, d1, e1, -⟩ := fbRead_total (i := 1) { s with draws := d0 } (by decide)
  exact ⟨b0 == Config.header0 && b1 == Config.header1, d1, by simp [headerMatches, e0, e1, bind, Except.bind]⟩

theorem headerMatches_listed {s : State} {b0 b1 : Byte} (h0 : Memory.get s.fb 0 = some b0)
    (h1 : Memory.get s.fb 1 = some b1) :
    headerMatches s = .ok (b0 == Config.header0 && b1 == Config.header1, s) := by
  simp [headerMatches, fbRead_listed (by decide : 0 < Config.fbCap) h0,
    fbRead_listed (by decide : 1 < Config.fbCap) h1, bind, Except.bind]

theorem trailerMatches_total (L : Nat) (s : State) (hL : L + 4 ≤ Config.fbCap) :
    ∃ g c d, trailerMatches L s = .ok (g, { s with crc := c, draws := d }) := by
  obtain ⟨bs, d, e, -, -⟩ := fbReadRange_total (L + 2) 0 s (by omega)
  obtain ⟨lo, d', e', -⟩ :=
    fbRead_total (i := L + 2) { s with crc := checksum bs, draws := d } (by omega)
  obtain ⟨hi, d'', e'', -⟩ :=
    fbRead_total (i := L + 3) { s with crc := checksum bs, draws := d' } (by omega)
  exact ⟨le16 lo hi == checksum bs, checksum bs, d'',
    by simp [trailerMatches, e, e', e'', bind, Except.bind]⟩

theorem latchFields_total (L : Nat) (s : State) :
    ∃ op ad f d, latchFields L s = .ok
      { s with rxOpcode := op, rxAddr := ad, status := { s.status with fields := f }, draws := d } := by
  by_cases h : 5 ≤ L
  · obtain ⟨op, d, e, -⟩ := fbRead_total (i := 4) s (by decide)
    obtain ⟨lo, d', e', -⟩ := fbRead_total (i := 5) { s with draws := d } (by decide)
    obtain ⟨hi, d'', e'', -⟩ := fbRead_total (i := 6) { s with draws := d' } (by decide)
    exact ⟨op, le16 lo hi, true, d'', by simp [latchFields, h, e, e', e'', bind, Except.bind]⟩
  · exact ⟨s.rxOpcode, s.rxAddr, s.status.fields, s.draws, by simp [latchFields, h]⟩

/-- How a DECODE ends: an error, or a success with VALID. -/
def DecodeEnd (u t : State) : Prop :=
  (∃ c, c ≠ .noError ∧ t = completeErr c u) ∨
    ∃ f, t = completeOk { u with status := { u.status with fields := f, valid := true } }

/-- DECODE answers whenever BUF_LEN is in range: it ends as `DecodeEnd` says, after changing at most
FRAME_LEN (to at most 65539), RX_OPCODE, RX_ADDR, CRC and the draw counter. -/
theorem decodeBody_total (s : State) (hn : s.bufLen.toNat ≤ Config.fbCap) :
    ∃ fl op ad c d t, decodeBody s = .ok t ∧ fl.toNat ≤ Config.fbCap ∧
      DecodeEnd { s with frameLen := fl, rxOpcode := op, rxAddr := ad, crc := c, draws := d } t := by
  simp only [decodeBody]
  by_cases h2 : s.bufLen.toNat < 2
  · exact ⟨0, 0, 0, s.crc, s.draws, _, by rw [if_pos h2], by decide, .inl ⟨.truncated, by decide, rfl⟩⟩
  rw [if_neg h2]
  obtain ⟨g, d, e⟩ := headerMatches_total { s with frameLen := 0, rxOpcode := 0, rxAddr := 0 }
  simp only [e, bind, Except.bind]
  cases g with
  | false =>
    exact ⟨0, 0, 0, s.crc, d, _, by simp only [Bool.not_false, if_true], by decide,
      .inl ⟨.invalidHeader, by decide, rfl⟩⟩
  | true =>
    simp only [Bool.not_true, Bool.false_eq_true, if_false]
    by_cases h4 : s.bufLen.toNat < 4
    · exact ⟨0, 0, 0, s.crc, d, _, by rw [if_pos h4], by decide, .inl ⟨.truncated, by decide, rfl⟩⟩
    rw [if_neg h4]
    obtain ⟨lo, d2, e2, -⟩ := fbRead_total (i := 2)
      { s with frameLen := 0, rxOpcode := 0, rxAddr := 0, draws := d } (by decide)
    obtain ⟨hi, d3, e3, -⟩ := fbRead_total (i := 3)
      { s with frameLen := 0, rxOpcode := 0, rxAddr := 0, draws := d2 } (by decide)
    have hL := (le16 lo hi).isLt
    have hfl : (expectedSize lo hi).toNat ≤ Config.fbCap := by
      rw [expectedSize_toNat, Config.fbCap]; omega
    simp only [decodeLength, e2, e3, bind, Except.bind]
    by_cases hl : (le16 lo hi).toNat < 2
    · exact ⟨_, 0, 0, s.crc, d3, _, by rw [if_pos hl], hfl, .inl ⟨.lengthInvalid, by decide, rfl⟩⟩
    rw [if_neg hl]
    by_cases ht : s.bufLen.toNat < (le16 lo hi).toNat + 4
    · exact ⟨_, 0, 0, s.crc, d3, _, by rw [if_pos ht], hfl, .inl ⟨.truncated, by decide, rfl⟩⟩
    rw [if_neg ht]
    obtain ⟨g, c, d4, e4⟩ := trailerMatches_total (le16 lo hi).toNat
      { s with frameLen := expectedSize lo hi, rxOpcode := 0, rxAddr := 0, draws := d3 } (by omega)
    simp only [decodeTrailer, e4, bind, Except.bind]
    cases g with
    | false =>
      exact ⟨_, 0, 0, c, d4, _, by simp only [Bool.false_eq_true, if_false], hfl,
        .inl ⟨.checksumMismatch, by decide, rfl⟩⟩
    | true =>
      obtain ⟨op, ad, f, d5, e5⟩ := latchFields_total (le16 lo hi).toNat
        { s with frameLen := expectedSize lo hi, rxOpcode := 0, rxAddr := 0, crc := c, draws := d4 }
      exact ⟨_, op, ad, c, d5, _, by simp only [if_true, e5], hfl, .inr ⟨f, rfl⟩⟩

end Sys2Proof.Machine
end

