-- ==== Sys2Proof/Laws/Decode.lean ====
section
/-! SUPPORT. The fields of a word built from its fields (30_encoding.md R70, R72), and each row's word
under its mask. -/

namespace Sys2Proof

theorem getLsbD_mkHostWord (w : Bool) (off : BitVec 7) (data : Word) (i : Nat) :
    (mkHostWord w off data).getLsbD i =
      if i < 32 then data.getLsbD i
      else if i - 32 < 7 then off.getLsbD (i - 32) else (BitVec.ofBool w).getLsbD (i - 32 - 7) := by
  unfold mkHostWord
  rw [BitVec.getLsbD_append, BitVec.getLsbD_append]

@[simp] theorem headByte_mkHostWord (w : Bool) (off : BitVec 7) (data : Word) :
    headByte (mkHostWord w off data) = BitVec.ofBool w ++ off := by
  apply BitVec.eq_of_getLsbD_eq
  intro i hi
  rw [headByte, BitVec.getLsbD_extractLsb', getLsbD_mkHostWord, BitVec.getLsbD_append]
  simp [hi]

@[simp] theorem fieldW_mkHostWord (w : Bool) (off : BitVec 7) (data : Word) :
    fieldW (mkHostWord w off data) = w := by
  rw [fieldW, headByte_mkHostWord, BitVec.getLsbD_append]
  simp

@[simp] theorem fieldOff_mkHostWord (w : Bool) (off : BitVec 7) (data : Word) :
    fieldOff (mkHostWord w off data) = off := by
  apply BitVec.eq_of_getLsbD_eq
  intro i hi
  rw [fieldOff, BitVec.getLsbD_extractLsb', headByte_mkHostWord, BitVec.getLsbD_append]
  simp [hi]

@[simp] theorem fieldData_mkHostWord (w : Bool) (off : BitVec 7) (data : Word) :
    fieldData (mkHostWord w off data) = data := by
  apply BitVec.eq_of_getLsbD_eq
  intro i hi
  rw [fieldData, BitVec.getLsbD_extractLsb', getLsbD_mkHostWord]
  simp [hi]

@[simp] theorem fieldCode_append (ignored : BitVec 24) (code : BitVec 8) :
    fieldCode (ignored ++ code) = code := by
  apply BitVec.eq_of_getLsbD_eq
  intro i hi
  rw [fieldCode, BitVec.getLsbD_extractLsb', BitVec.getLsbD_append]
  simp [hi]

@[simp] theorem fieldIgnored_append  (ignored : BitVec 24) (code : BitVec 8) :
    fieldIgnored (ignored ++ code) = ignored := by
  apply BitVec.eq_of_getLsbD_eq
  intro i hi
  rw [fieldIgnored, BitVec.getLsbD_extractLsb', BitVec.getLsbD_append]
  simp [hi]

/-- A word is its fields: no bit of it is lost. -/
theorem mkHostWord_fields (w : HostWord) :
    mkHostWord (fieldW w) (fieldOff w) (fieldData w) = w := by
  apply BitVec.eq_of_getLsbD_eq
  intro i hi
  simp only [getLsbD_mkHostWord, fieldW, fieldOff, fieldData, headByte,
    BitVec.getLsbD_extractLsb', BitVec.getLsbD_ofBool]
  by_cases h32 : i < 32
  · simp [h32]
  · by_cases h7 : i - 32 < 7
    · simp [h32, h7, show i - 32 < 8 by omega, show 32 + (i - 32) = i by omega]
    · simp [show i = 39 by omega]

/-- DATA of a command word is its two fields. -/
theorem fieldIgnored_code (data : Word) : (fieldIgnored data ++ fieldCode data : Word) = data := by
  apply BitVec.eq_of_getLsbD_eq
  intro i hi
  rw [fieldIgnored, fieldCode, BitVec.getLsbD_append, BitVec.getLsbD_extractLsb',
    BitVec.getLsbD_extractLsb']
  split
  · simp [*]
  · simp [show i - 8 < 24 by omega, show 8 + (i - 8) = i by omega]

/-- A host word under the mask of a register row keeps W and OFF alone. -/
theorem mkHostWord_and_head (w : Bool) (off : BitVec 7) (data : Word) :
    mkHostWord w off data &&& 0xFF00000000 = mkHostWord w off 0 := by
  apply BitVec.eq_of_getLsbD_eq
  intro i hi
  have hmask : (0xFF00000000 : HostWord) = BitVec.allOnes 8 ++ 0#32 := by decide
  rw [hmask, BitVec.getLsbD_and, BitVec.getLsbD_append, getLsbD_mkHostWord, getLsbD_mkHostWord,
    BitVec.getLsbD_allOnes]
  by_cases h32 : i < 32
  · simp [h32]
  · simp [h32, show i - 32 < 8 by omega]

/-- A command word under the mask of its row keeps W, OFF and the code. -/
theorem mkHostWord_and_command (w : Bool) (off : BitVec 7) (ignored : BitVec 24) (code : BitVec 8) :
    mkHostWord w off (ignored ++ code) &&& 0xFF000000FF = mkHostWord w off (0#24 ++ code) := by
  apply BitVec.eq_of_getLsbD_eq
  intro i hi
  have hmask : (0xFF000000FF : HostWord) = BitVec.allOnes 8 ++ (0#24 ++ BitVec.allOnes 8) := by
    decide
  rw [hmask, BitVec.getLsbD_and, BitVec.getLsbD_append, getLsbD_mkHostWord, getLsbD_mkHostWord,
    BitVec.getLsbD_append, BitVec.getLsbD_append, BitVec.getLsbD_append, BitVec.getLsbD_allOnes,
    BitVec.getLsbD_allOnes]
  by_cases h32 : i < 32
  · by_cases h8 : i < 8
    · simp [h32, h8]
    · simp [h32, h8]
  · simp [h32, show i - 32 < 8 by omega]

end Sys2Proof
end

