-- ==== Sys2Proof/Laws/Reassembler.lean ====
section
/-! SUPPORT. What the reassembler's parts can do (43_reassembler.md): each answers on every state
whose lengths are in range, and ends as its rule says. -/

namespace Sys2Proof.Machine

/-- How the checks of a complete response end (R178-R181): an error, a device error with its byte in
DEV_CODE, or success. -/
def FinishEnd (u t : State) : Prop :=
  (∃ c, c ≠ .noError ∧ t = tFail c u) ∨
    (∃ v, t = tFail .deviceError { u with status := { u.status with devCode := v } }) ∨
    t = succeed u

theorem statusCheck_total (L : Nat) (s : State) (hL : L + 4 ≤ Config.fbCap) :
    ∃ d t, statusCheck L s = .ok t ∧ FinishEnd { s with draws := d } t := by
  by_cases h : L + 2 ≤ s.statusIndex.toNat
  · exact ⟨s.draws, _, by simp [statusCheck, h], .inl ⟨.malformed, by decide, rfl⟩⟩
  · obtain ⟨b, d, e, -⟩ := fbRead_total (i := s.statusIndex.toNat) s (by omega)
    by_cases hb : b.toNat ≤ 2 ∧ s.ctrl.ackMask.getLsbD b.toNat = true
    · exact ⟨d, _, by simp only [statusCheck, h, if_false, e, bind, Except.bind, if_pos hb],
        .inr (.inr rfl)⟩
    · exact ⟨d, _, by simp only [statusCheck, h, if_false, e, bind, Except.bind, if_neg hb],
        .inr (.inl ⟨b, rfl⟩)⟩

theorem statusGate_total (L : Nat) (s : State) (hL : L + 4 ≤ Config.fbCap) :
    ∃ d t, statusGate L s = .ok t ∧ FinishEnd { s with draws := d } t := by
  cases h : s.ctrl.statusEn with
  | true => simpa [statusGate, h] using statusCheck_total L s hL
  | false => exact ⟨s.draws, _, by simp only [statusGate, h, Bool.false_eq_true, if_false],
      .inr (.inr rfl)⟩

/-- `finish()` answers whenever FRAME_LEN is in range: it ends as `FinishEnd` says, after changing at
most RX_OPCODE, RX_ADDR, FIELDS, CRC and the draw counter. -/
theorem finish_total (s : State) (hs : s.frameLen.toNat ≤ Config.fbCap) :
    ∃ op ad f c d t, finish s = .ok t ∧
      FinishEnd
        { s with
          rxOpcode := op, rxAddr := ad, crc := c, draws := d
          status := { s.status with fields := f } } t := by
  have hcap : Config.fbCap = 65539 := rfl
  obtain ⟨g, d, e⟩ := headerMatches_total s
  cases g with
  | false =>
    exact ⟨s.rxOpcode, s.rxAddr, s.status.fields, s.crc, d, _,
      by simp only [finish, e, bind, Except.bind, Bool.not_false, if_true],
      .inl ⟨.invalidHeader, by decide, rfl⟩⟩
  | true =>
    by_cases h2 : s.frameLen.toNat - 4 < 2
    · exact ⟨s.rxOpcode, s.rxAddr, s.status.fields, s.crc, d, _,
        by simp only [finish, e, bind, Except.bind, Bool.not_true, Bool.false_eq_true, if_false, h2,
          if_true],
        .inl ⟨.lengthInvalid, by decide, rfl⟩⟩
    obtain ⟨g, c, d1, e1⟩ :=
      trailerMatches_total (s.frameLen.toNat - 4) { s with draws := d } (by omega)
    have e0 : finish s = finishTrailer (s.frameLen.toNat - 4) { s with draws := d } := by
      simp only [finish, e, bind, Except.bind, Bool.not_true, Bool.false_eq_true, if_false, h2]
    rw [e0]
    cases g with
    | false =>
      exact ⟨s.rxOpcode, s.rxAddr, s.status.fields, c, d1, _,
        by simp only [finishTrailer, e1, bind, Except.bind, Bool.false_eq_true, if_false],
        .inl ⟨.checksumMismatch, by decide, rfl⟩⟩
    | true =>
      obtain ⟨op, ad, f, d2, e2⟩ :=
        latchFields_total (s.frameLen.toNat - 4) { s with crc := c, draws := d1 }
      obtain ⟨d3, t, e3, ht⟩ := statusGate_total (s.frameLen.toNat - 4)
        { s with
          rxOpcode := op, rxAddr := ad, crc := c, draws := d2
          status := { s.status with fields := f } } (by omega)
      exact ⟨op, ad, f, c, d3, t,
        by simp only [finishTrailer, e1, bind, Except.bind, if_true, e2, e3], ht⟩

/-- BUF_LEN and FRAME_LEN as they stand between steps of the RX phase (R47). -/
def RxLengths (s : State) : Prop :=
  (s.bufLen.toNat < 4 → s.frameLen = 0) ∧
    (4 ≤ s.bufLen.toNat → s.bufLen.toNat < s.frameLen.toNat) ∧ s.frameLen.toNat ≤ Config.fbCap

/-- Only at the fourth byte does FRAME_LEN change, to the size that FB[2] and FB[3] give when both are
listed. -/
theorem latchFrameLen_total (s : State) :
    ∃ fl d, latchFrameLen s = .ok { s with frameLen := fl, draws := d } ∧
      (s.bufLen ≠ 4 → fl = s.frameLen) ∧
      (s.bufLen = 4 → 4 ≤ fl.toNat ∧ fl.toNat ≤ Config.fbCap ∧
        ∀ lo hi, Memory.get s.fb 2 = some lo → Memory.get s.fb 3 = some hi →
          fl = expectedSize lo hi ∧ d = s.draws) := by
  by_cases h : s.bufLen = 4
  · obtain ⟨lo, d, e, hlo⟩ := fbRead_total (i := 2) s (by decide)
    obtain ⟨hi, d', e', hhi⟩ := fbRead_total (i := 3) { s with draws := d } (by decide)
    have hcap : Config.fbCap = 65539 := rfl
    have := (le16 lo hi).isLt
    have hsize := expectedSize_toNat lo hi
    refine ⟨expectedSize lo hi, d', by
      rw [latchFrameLen, if_pos h]
      simp only [e, e', bind, Except.bind], fun hn => absurd h hn, fun _ => ⟨by omega, by omega, ?_⟩⟩
    intro lo' hi' h1 h2
    obtain ⟨rfl, hd⟩ := hlo _ h1
    obtain ⟨rfl, hd'⟩ := hhi _ h2
    exact ⟨rfl, by rw [hd', hd]⟩
  · exact ⟨s.frameLen, s.draws, by rw [latchFrameLen, if_neg h], fun _ => rfl, fun hn => absurd hn h⟩

/-- `rx_byte(b)` answers whenever the RX lengths are in order: the byte is stored at BUF_LEN, which
advances, FRAME_LEN takes a value in range (at the fourth byte the size that listed FB[2] and FB[3]
give), and then either the frame is not complete and the lengths are in order again, or the checks
have ended the command. -/
theorem rxByte_total (b : Byte) (s : State) (h : RxLengths s) :
    ∃ fl d t, rxByte b s = .ok t ∧ fl.toNat ≤ Config.fbCap ∧
      (s.bufLen + 1).toNat = s.bufLen.toNat + 1 ∧ s.bufLen.toNat < Config.fbCap ∧
      (s.bufLen.toNat ≠ 3 → fl = s.frameLen) ∧
      (s.bufLen.toNat = 3 → ∀ lo, Memory.get s.fb 2 = some lo → fl = expectedSize lo b) ∧
      let u :=
        { s with
          fb := Memory.set s.fb s.bufLen.toNat b, bufLen := s.bufLen + 1, frameLen := fl, draws := d }
      (t = u ∧ RxLengths u) ∨
        (4 ≤ u.bufLen.toNat ∧ u.bufLen = u.frameLen ∧ ∃ op ad f c d',
          FinishEnd
            { u with
              rxOpcode := op, rxAddr := ad, crc := c, draws := d'
              status := { u.status with fields := f } } t) := by
  have hcap : Config.fbCap = 65539 := rfl
  obtain ⟨h1, h2, h3⟩ := h
  have hlt : s.bufLen.toNat < 65539 := by
    by_contra hn
    have := h2 (by omega)
    omega
  have hinc : (s.bufLen + 1).toNat = s.bufLen.toNat + 1 := by
    rw [BitVec.toNat_add]
    simp
    omega
  have h4 : s.bufLen + 1 = 4 ↔ s.bufLen.toNat = 3 := by
    rw [← BitVec.toNat_inj, hinc]
    simp
  have ew := fbWrite_total b s (by omega : s.bufLen.toNat < Config.fbCap)
  obtain ⟨fl, d, el, hsame, hnew⟩ := latchFrameLen_total
    { s with fb := Memory.set s.fb s.bufLen.toNat b, bufLen := s.bufLen + 1 }
  dsimp only at el hsame hnew
  rw [ne_eq, h4] at hsame
  rw [h4] at hnew
  have hflcap : fl.toNat ≤ Config.fbCap := by
    by_cases h5 : s.bufLen.toNat = 3
    · exact (hnew h5).2.1
    · rw [hsame h5]
      exact h3
  have hsize : s.bufLen.toNat = 3 → ∀ lo, Memory.get s.fb 2 = some lo → fl = expectedSize lo b := by
    intro h5 lo hlo
    refine ((hnew h5).2.2 lo b ?_ ?_).1
    · rw [Memory.get_set_other _ _ _ _ (by omega), hlo]
    · rw [h5, Memory.get_set_same]
  by_cases hc : 4 ≤ (s.bufLen + 1).toNat ∧ s.bufLen + 1 = fl
  · obtain ⟨op, ad, f, c, d', t, e, ht⟩ := finish_total
      { s with
        fb := Memory.set s.fb s.bufLen.toNat b, bufLen := s.bufLen + 1, frameLen := fl, draws := d }
      hflcap
    exact ⟨fl, d, t, by simp only [rxByte, ew, el, bind, Except.bind, if_pos hc, e], hflcap, hinc,
      by omega, hsame, hsize, .inr ⟨hc.1, hc.2, op, ad, f, c, d', ht⟩⟩
  · refine ⟨fl, d, _, by simp only [rxByte, ew, el, bind, Except.bind, if_neg hc], hflcap, hinc,
      by omega, hsame, hsize, .inl ⟨rfl, ?_, ?_, hflcap⟩⟩
    · intro hn
      simp only [hinc] at hn
      rw [hsame (by omega)]
      exact h1 (by omega)
    · intro hn
      simp only [hinc] at hn ⊢
      have hne : s.bufLen.toNat + 1 ≠ fl.toNat := by
        intro he
        exact hc ⟨by omega, BitVec.eq_of_toNat_eq (by omega)⟩
      by_cases h5 : s.bufLen.toNat = 3
      · have := (hnew h5).1
        omega
      · have := h2 (by omega)
        rw [hsame h5] at hne ⊢
        omega

/-! ### The poll's loop (R176) -/

/-- Outside RX the loop ends at once. -/
theorem rxDrain_stop {l : List Byte} {s : State} (h : s.phase ≠ .rx) : rxDrain l s = .ok s := by
  cases l with
  | nil => rfl
  | cons b l =>
    unfold rxDrain
    cases hp : s.phase with
    | rx => exact absurd hp h
    | idle | tx => rfl

/-- In RX the loop receives the head and goes on with the rest. -/
theorem rxDrain_cons {b : Byte} {l : List Byte} {s t : State} (h : s.phase = .rx)
    (e : rxByte b { s with transport := { s.transport with rx := l } } = .ok t) :
    rxDrain (b :: l) s = rxDrain l t := by
  rw [rxDrain, h]
  rw [h] at e
  simp only [e, bind, Except.bind]

theorem pollTickStep_idle {s : State} (h : s.phase = .idle) : pollTickStep s = .ok s := by
  unfold pollTickStep
  rw [h]

theorem pollTickStep_tx {s : State} (h : s.phase = .tx) :
    pollTickStep s = .ok (idlePoll s) := by
  unfold pollTickStep
  rw [h]

theorem pollTickStep_rx {s : State} (h : s.phase = .rx) :
    pollTickStep s =
      if s.transport.rx = [] then .ok (idlePoll s)
      else rxDrain s.transport.rx { s with idlePolls := 0 } := by
  unfold pollTickStep
  rw [h]

/-- A complete frame's checks leave RX, whatever they find (R107). -/
theorem FinishEnd.phase {u t : State} (h : FinishEnd u t) : t.phase = .idle := by
  rcases h with ⟨c, -, rfl⟩ | ⟨v, rfl⟩ | rfl <;> rfl

end Sys2Proof.Machine
end

