-- ==== Sys2Proof/Laws/Step.lean ====
section
/-! SUPPORT. What one agent's step is: the event at the schedule's head, run in the state that has
taken it off. -/

namespace Sys2Proof.Machine

theorem step_cons {s : State} {e : Event} {rest : List Event} (h : s.inputs = e :: rest) :
    step s = runEvent e { s with inputs := rest } := by
  rw [step, stepBody, h]

theorem step_nil {s : State} (h : s.inputs = []) : step s = .next s := by
  rw [step, stepBody, h]

/-- One agent's step is its event's effect: the schedule is as before. -/
theorem act_eq (e : Event) (s : State) : act e s = runEvent e s := rfl

@[simp] theorem act_op (w : OpWord) (s : State) : act (.op w) s = runOp w s := rfl

@[simp] theorem act_access (a : HostAccess) (s : State) : act (.access a) s = runAccess a s := rfl

@[simp] theorem act_arrive (bs : List Byte) (s : State) :
    act (.arrive bs) s = .next (arrive bs s) := rfl

@[simp] theorem act_drain (s : State) : act .drain s = .next (drain s) := rfl

@[simp] theorem act_txAccept (s : State) : act .txAccept s = toOutcome (txAcceptStep s) := rfl

@[simp] theorem act_pollTick (s : State) : act .pollTick s = toOutcome (pollTickStep s) := rfl

@[simp] theorem act_ioFail (after : Transport) (s : State) :
    act (.ioFail after) s = .next (ioFailStep after s) := rfl

@[simp] theorem act_reset (s : State) : act .reset s = .next (engineReset s) := rfl

theorem runOp_ok {w : OpWord} {i : Instr} (h : decode w = .ok i) (s : State) :
    runOp w s = exec i s := by simp only [runOp, h]

theorem runOp_error {w : OpWord} {r : Reject} (h : decode w = .error r) (s : State) :
    runOp w s = rejectOp r s := by simp only [runOp, h]

/-- A run is one step and then the rest. -/
theorem runEvents_cons {e : Event} {es : List Event} {s t : State} (h : act e s = .next t) :
    runEvents (e :: es) s = runEvents es t := by simp only [runEvents, h]

/-- A run that answers has a first step that answers. -/
theorem runEvents_cons_next {e : Event} {es : List Event} {s t : State}
    (h : runEvents (e :: es) s = .next t) :
    ∃ u, act e s = .next u ∧ runEvents es u = .next t := by
  simp only [runEvents] at h
  split at h
  · exact ⟨_, ‹_›, h⟩
  · cases h
  · cases h

end Sys2Proof.Machine
end

