-- ==== Sys2Proof/Laws/Invariant.lean ====
section
/-! SUPPORT. The invariant of R47 through each shared operation: what a command, an access or an
engine step leaves. -/

namespace Sys2Proof.Machine

/-! ### Operations that touch no field the invariant reads -/

theorem Inv.raiseAccessFault {s : State} (h : Inv s) : Inv (raiseAccessFault s) := h

theorem Inv.raiseRejected {s : State} (h : Inv s) : Inv (raiseRejected s) := h

theorem Inv.returnRead {s : State} (v : Word) (h : Inv s) : Inv (returnRead v s) := h

theorem Inv.refuseAccess {s : State} (w : Bool) (h : Inv s) : Inv (refuseAccess w s) := by
  cases w <;> exact h

theorem Inv.arrive {s : State} (bs : List Byte) (h : Inv s) : Inv (arrive bs s) := h

theorem Inv.drain {s : State} (h : Inv s) : Inv (drain s) := by
  unfold Machine.drain
  split <;> exact h

theorem Inv.setTransport {s : State} (x : Transport) (h : Inv s) :
    Inv { s with transport := x } := h

theorem Inv.setDraws {s : State} (d : Nat) (h : Inv s) : Inv { s with draws := d } := h

theorem Inv.setInputs {s : State} (es : List Event) (h : Inv s) : Inv { s with inputs := es } := h

/-! ### Completion -/

/-- A completed command leaves the invariant: what is asked of the state it ends in. -/
theorem Inv.ended {t : State} (hb : BoundsOk t) (hp : t.phase = .idle)
    (hbusy : t.status.busy = false) (hdone : t.status.done = true)
    (herr : t.status.err = true ↔ t.status.errCode ≠ .noError)
    (hvalid : t.status.valid = true → t.status.err = false)
    (hdev : t.status.devCode ≠ 0 → t.status.errCode = .deviceError) : Inv t := by
  refine ⟨hb, ⟨?_, ?_, ?_, ?_, hdev, ?_⟩, ?_, ?_, ?_, ?_, ?_, ?_⟩
  all_goals simp_all

theorem Inv.completeOk {u : State} (hb : BoundsOk u) (hdev : u.status.devCode = 0) :
    Inv (completeOk u) :=
  Inv.ended hb rfl rfl rfl (by simp) (by simp) (by simp [hdev])

theorem Inv.completeErr {u : State} {c : ErrCode} (hc : c ≠ .noError) (hb : BoundsOk u)
    (hvalid : u.status.valid = false) (hdev : u.status.devCode ≠ 0 → c = .deviceError) :
    Inv (completeErr c u) :=
  Inv.ended hb rfl rfl rfl (by simp [hc]) (by simp [hvalid]) (by simpa using hdev)

theorem BoundsOk.zeroBufPtr {u : State} (h : BoundsOk u) : BoundsOk { u with bufPtr := 0 } := by
  obtain ⟨h1, h2, h3, h4, h5, h6, h7⟩ := h
  exact ⟨h1, h2, by simp, h4, h5, h6, h7⟩

theorem Inv.tFail {u : State} {c : ErrCode} (hc : c ≠ .noError) (hb : BoundsOk u)
    (hvalid : u.status.valid = false) (hdev : u.status.devCode ≠ 0 → c = .deviceError) :
    Inv (tFail c u) :=
  Inv.completeErr hc hb.zeroBufPtr hvalid hdev

theorem Inv.succeed {u : State} (hb : BoundsOk u) (hdev : u.status.devCode = 0) :
    Inv (succeed u) :=
  Inv.completeOk (BoundsOk.zeroBufPtr (u := { clearTransport
    { u with status := { u.status with valid := true } } with bufPtr := u.bufPtr }) hb) hdev

/-- However the checks of a response end, the invariant holds. -/
theorem FinishEnd.inv {u t : State} (h : FinishEnd u t) (hb : BoundsOk u)
    (hvalid : u.status.valid = false) (hdev : u.status.devCode = 0) : Inv t := by
  rcases h with ⟨c, hc, rfl⟩ | ⟨v, rfl⟩ | rfl
  · exact Inv.tFail hc hb hvalid (by simp [hdev])
  · exact Inv.tFail (by decide) hb hvalid (fun _ => rfl)
  · exact Inv.succeed hb hdev

/-- While BUSY no completion field is set (R106, R112). -/
theorem Inv.busy_status {s : State} (h : Inv s) (hp : s.phase ≠ .idle) :
    s.status.busy = true ∧ s.status.done = false ∧ s.status.err = false ∧
      s.status.valid = false ∧ s.status.errCode = .noError ∧ s.status.devCode = 0 ∧
      s.status.fields = false := by
  obtain ⟨-, ⟨hbusy, hdone, herr, hvalid, -, hclear⟩, -⟩ := h
  have hb : s.status.busy = true := hbusy.2 hp
  obtain ⟨h1, h2, h3⟩ := hclear hb
  have hd := hdone hb
  refine ⟨hb, hd, ?_, ?_, h1, h2, h3⟩
  · cases he : s.status.err with
    | false => rfl
    | true => exact absurd h1 (herr.1 he).2
  · cases hv : s.status.valid with
    | false => rfl
    | true => rw [(hvalid hv).1] at hd; cases hd

/-! ### Commands -/

/-- A command keeps the invariant if its body does from an accepted, idle state. -/
theorem Inv.runCommand {body : State → Except Fault State} {s t : State} (h : Inv s)
    (hbody : ∀ t, s.status.busy = false → s.phase = .idle → body (accept s) = .ok t → Inv t)
    (e : runCommand body s = .next t) : Inv t := by
  rcases runCommand_next e with ⟨-, rfl⟩ | ⟨hb, e⟩
  · exact h
  · refine hbody t hb ?_ e
    by_contra hp
    rw [h.2.1.1.2 hp] at hb
    cases hb

theorem Inv.lockedWrite {body : State → Except Fault State} {s t : State} (h : Inv s)
    (hbody : ∀ t, s.status.busy = false → s.phase = .idle → body s = .ok t → Inv t)
    (e : lockedWrite body s = .next t) : Inv t := by
  rcases lockedWrite_next e with ⟨-, rfl⟩ | ⟨hb, e⟩
  · exact h
  · refine hbody t hb ?_ e
    by_contra hp
    rw [h.2.1.1.2 hp] at hb
    cases hb

/-- In IDLE the invariant asks only for the ranges and the status. -/
theorem Inv.of_idle {s t : State} (h : Inv s) (hp : s.phase = .idle) (hb : BoundsOk t)
    (hs : t.status = s.status) (hq : t.phase = s.phase) : Inv t := by
  obtain ⟨-, hst, -⟩ := h
  have hbusy : t.status.busy = false := by
    cases hb : s.status.busy with
    | false => rw [hs]; exact hb
    | true => exact absurd hp (hst.1.1 hb)
  refine ⟨hb, ?_, ?_⟩
  · simpa only [StatusOk, hs, hq] using hst
  · have : t.phase = .idle := hq.trans hp
    refine ⟨?_, ?_, ?_, ?_, ?_, ?_⟩
    all_goals simp_all

theorem decodeBody_inv {s t : State} (h : Inv s) (e : decodeBody (accept s) = .ok t) : Inv t := by
  obtain ⟨⟨b1, b2, b3, b4, b5, b6, b7⟩, -, -⟩ := h
  obtain ⟨fl, op, ad, c, d, u, e', hfl, hu⟩ := decodeBody_total (accept s) b4
  rw [e'] at e
  cases e
  rcases hu with ⟨c, hc, rfl⟩ | ⟨f, rfl⟩
  · exact Inv.completeErr hc ⟨b1, b2, b3, b4, hfl, b6, b7⟩ rfl (by simp)
  · exact Inv.completeOk ⟨b1, b2, b3, b4, hfl, b6, b7⟩ rfl

/-- ENCODE's emission answers when ARG is in range: FB takes the request and the registers its size and
checksum. -/
theorem emitRequest_total (s : State) (h : argCount s ≤ 65530) :
    ∃ m, emitRequest s = .ok (completeOk
        { s with
          fb := m, crc := requestCrc s.opcode s.address s.arg
          bufLen := BitVec.ofNat 17 (argCount s + 9), bufPtr := 0
          frameLen := BitVec.ofNat 17 (argCount s + 9) }) ∧
      (∀ k (hk : k < (buildRequest s.opcode s.address s.arg).length),
        Memory.get m k = some (buildRequest s.opcode s.address s.arg)[k]) ∧
      (∀ i, argCount s + 9 ≤ i → Memory.get m i = Memory.get s.fb i) ∧
      (Memory.wf s.fb → Memory.wf m) := by
  have hlen : (buildRequest s.opcode s.address s.arg).length = argCount s + 9 :=
    buildRequest_length _ _ _
  obtain ⟨m, e, hin, hout, hwf⟩ := fbWriteRange_total (buildRequest s.opcode s.address s.arg) 0 s
    (by rw [hlen, Config.fbCap]; omega)
  refine ⟨m, by simp only [emitRequest, e, bind, Except.bind, argCount], ?_, ?_, hwf⟩
  · intro k hk
    simpa using hin k hk
  · intro i hi
    exact hout i (.inr (by rw [hlen]; omega))

theorem encodeBody_inv {s t : State} (h : Inv s) (e : encodeBody (accept s) = .ok t) : Inv t := by
  obtain ⟨⟨b1, b2, b3, b4, b5, b6, b7⟩, -, -⟩ := h
  simp only [encodeBody] at e
  split at e
  · cases e
    exact Inv.completeErr (by decide) ⟨b1, b2, b3, b4, by simp, b6, b7⟩ rfl (by simp)
  · obtain ⟨m, e', -, -, hwf⟩ := emitRequest_total { accept s with frameLen := 0 } b2
    rw [e'] at e
    cases e
    have hn : (BitVec.ofNat 17 (argCount s + 9)).toNat ≤ 65539 := by
      rw [BitVec.toNat_ofNat, Nat.mod_eq_of_lt (by omega)]
      omega
    exact Inv.completeOk ⟨hwf b1, b2, by simp, hn, hn, b6, b7⟩ rfl

theorem crcBufBody_inv {s t : State} (h : Inv s) (e : crcBufBody (accept s) = .ok t) : Inv t := by
  obtain ⟨⟨b1, b2, b3, b4, b5, b6, b7⟩, -, -⟩ := h
  obtain ⟨bs, d, e', -, -⟩ :=
    fbReadRange_total s.bufLen.toNat 0 (accept s) (by rw [Config.fbCap]; omega)
  simp only [crcBufBody, accept_bufLen, e', bind, Except.bind] at e
  cases e
  exact Inv.completeOk ⟨b1, b2, b3, b4, b5, b6, b7⟩ rfl

theorem transactBody_inv {s t : State} (h : Inv s) (hp : s.phase = .idle)
    (e : transactBody (accept s) = .ok t) : Inv t := by
  obtain ⟨⟨b1, b2, b3, b4, b5, b6, b7⟩, -, -⟩ := h
  unfold transactBody at e
  by_cases hz : (accept s).bufLen.toNat = 0
  · rw [if_pos hz] at e
    cases e
    refine ⟨⟨b1, b2, b3, by simp [enterRx], by simp [enterRx],
      by simp [enterRx, startTransact], b4⟩, ?_, ?_⟩
    · simp [StatusOk, enterRx, startTransact]
    · simp [SequencerOk, enterRx, startTransact]
  · rw [if_neg hz] at e
    cases e
    refine ⟨⟨b1, b2, b3, b4, by simp [startTransact], by simp [startTransact], b4⟩, ?_, ?_⟩
    · simp [StatusOk, startTransact]
    · simp only [SequencerOk, startTransact, accept_bufLen] at hz ⊢
      simp
      omega

/-! ### Engine steps -/

theorem Inv.idlePoll {s : State} (h : Inv s) (hp : s.phase ≠ .idle) : Inv (idlePoll s) := by
  obtain ⟨-, -, -, hvalid, -, hdev, -⟩ := h.busy_status hp
  have hbusy := (h.busy_status hp).1
  obtain ⟨⟨b1, b2, b3, b4, b5, b6, b7⟩, hst, q1, q2, q3, q4, q5, q6⟩ := h
  have hidle := q6 hbusy
  have hN := s.timeoutPolls.isLt
  have hinc : (s.idlePolls + 1).toNat = s.idlePolls.toNat + 1 := by
    rw [BitVec.toNat_add]
    simp
    omega
  simp only [Machine.idlePoll]
  split
  · exact Inv.tFail (by decide) ⟨b1, b2, b3, b4, b5, b6, b7⟩ hvalid (by simp [hdev])
  · rename_i hlt
    refine ⟨⟨b1, b2, b3, b4, b5, b6, b7⟩, hst, q1, q2, q3, q4, q5, fun _ => ?_⟩
    exact Nat.lt_of_not_le hlt

theorem Inv.ioFail {s : State} (after : Transport) (h : Inv s) : Inv (ioFailStep after s) := by
  unfold ioFailStep
  split
  · exact h
  all_goals
    rename_i hp
    have hst := h.busy_status (by simp [hp])
    exact Inv.tFail (u := { s with transport := after }) (by decide) h.1 hst.2.2.2.1
      (by simp [hst.2.2.2.2.2.1])

theorem Inv.txAccept {s t : State} (h : Inv s) (e : txAcceptStep s = .ok t) : Inv t := by
  unfold txAcceptStep at e
  cases hp : s.phase with
  | idle | rx =>
    simp only [hp] at e
    cases e
    exact h
  | tx =>
    have hbusy := (h.busy_status (by simp [hp])).1
    obtain ⟨⟨b1, b2, b3, b4, b5, b6, b7⟩, hst, q1, q2, q3, q4, q5, q6⟩ := h
    obtain ⟨hlt, hlen⟩ := q1 hp
    obtain ⟨b, d, e', -⟩ := fbRead_total (i := s.txIdx) s (by rw [Config.fbCap]; omega)
    simp only [hp, e', bind, Except.bind] at e
    split at e
    · cases e
      refine ⟨⟨b1, b2, b3, by simp, by simp, by simpa using hlt, b7⟩, ?_, ?_⟩
      · simpa [StatusOk, enterRx, hp] using hst
      · simp [SequencerOk, enterRx]
    · rename_i hne
      cases e
      refine ⟨⟨b1, b2, b3, b4, b5, by simpa using hlt, b7⟩, ?_, ?_⟩
      · simpa [StatusOk, hp] using hst
      · simp only [SequencerOk]
        simp
        omega

/-- TX_ACCEPT in phase TX answers and advances tx_idx by one (R174). -/
theorem txAcceptStep_tx {s : State} (hp : s.phase = .tx) (hi : s.txIdx < Config.fbCap) :
    ∃ t, txAcceptStep s = .ok t ∧ t.txIdx = s.txIdx + 1 := by
  obtain ⟨b, d, e, -⟩ := fbRead_total s hi
  simp only [txAcceptStep, hp, e, bind, Except.bind]
  refine ⟨_, rfl, ?_⟩
  split <;> rfl

/-- A wire word whose transmission is enabled is TX_ACCEPT, and another changes nothing. -/
theorem transmitOpcode_enabled {b : Byte} {s : State} (h : sendsOpcode b s) :
    transmitOpcode b s = txAcceptStep s := if_pos h

theorem transmitOpcode_disabled {b : Byte} {s : State} (h : ¬ sendsOpcode b s) :
    transmitOpcode b s = .ok s := if_neg h

/-- A wire word's step is TX_ACCEPT's or changes nothing. -/
theorem transmitOpcode_cases (b : Byte) (s : State) :
    (s.phase = .tx ∧ s.txIdx = 4 ∧ transmitOpcode b s = txAcceptStep s) ∨
      transmitOpcode b s = .ok s := by
  by_cases h : sendsOpcode b s
  · exact .inl ⟨h.1, h.2.1, transmitOpcode_enabled h⟩
  · exact .inr (transmitOpcode_disabled h)

/-- A wire word of any byte is that byte's transmission as frame byte 4, a row of the table or not. -/
theorem runOp_wire (b : Byte) (s : State) :
    runOp (.wire b) s = toOutcome (transmitOpcode b s) := by
  unfold runOp
  simp only [decode, decodeWire]
  by_cases h1 : b = Config.opRead
  · subst h1
    rfl
  · by_cases h2 : b = Config.opWrite
    · subst h2
      rfl
    · simp only [if_neg h1, if_neg h2, rejectOp]

theorem Inv.transmitOpcode {b : Byte} {s t : State} (h : Inv s)
    (e : transmitOpcode b s = .ok t) : Inv t := by
  rcases transmitOpcode_cases b s with ⟨-, -, e'⟩ | e'
  · exact h.txAccept (e' ▸ e)
  · rw [e'] at e
    cases e
    exact h

theorem Inv.rxLengths {s : State} (h : Inv s) (hp : s.phase = .rx) : RxLengths s :=
  ⟨h.2.2.2.1 hp, h.2.2.2.2.1 hp, h.1.2.2.2.2.1⟩

/-- Receiving a byte in the RX phase answers and keeps the invariant. -/
theorem Inv.rxByte {s : State} (b : Byte) (h : Inv s) (hp : s.phase = .rx) :
    ∃ t, rxByte b s = .ok t ∧ Inv t := by
  have hst := h.busy_status (by simp [hp])
  have hcap : Config.fbCap = 65539 := rfl
  obtain ⟨fl, d, t, e, hfl, hinc, hlt, hsame, hsize, ht⟩ := rxByte_total b s (h.rxLengths hp)
  obtain ⟨⟨b1, b2, b3, b4, b5, b6, b7⟩, hs, q1, q2, q3, q4, q5, q6⟩ := h
  refine ⟨t, e, ?_⟩
  have hwf := Memory.set_wf s.fb s.bufLen.toNat b hlt b1
  rcases ht with ⟨rfl, r1, r2, -⟩ | ⟨-, -, op, ad, f, c, d', ht⟩
  · have hlisted : ∀ i, i < s.bufLen.toNat + 1 →
        (Memory.get (Memory.set s.fb s.bufLen.toNat b) i).isSome = true := by
      intro i hi
      rw [Memory.get_set]
      split
      · rfl
      · exact q4 hp i (by omega)
    have hsum : 4 ≤ s.bufLen.toNat + 1 → fl.toNat =
        listedLength { s with fb := Memory.set s.fb s.bufLen.toNat b } + 4 := by
      intro h4
      by_cases h3 : s.bufLen.toNat = 3
      · obtain ⟨lo, hlo⟩ := Option.isSome_iff_exists.1 (q4 hp 2 (by omega))
        rw [hsize h3 lo hlo, expectedSize_toNat, le16_toNat]
        simp only [listedLength, h3, Memory.get_set_same, Option.getD_some,
          Memory.get_set_other _ _ _ _ (by decide : (2 : Nat) ≠ 3), hlo]
      · rw [hsame h3, q5 hp (by omega)]
        simp only [listedLength]
        rw [Memory.get_set_other _ _ _ _ (by omega), Memory.get_set_other _ _ _ _ (by omega)]
    refine ⟨⟨hwf, b2, b3, by show (s.bufLen + 1).toNat ≤ 65539; omega, hfl, b6, b7⟩, hs, ?_, ?_, ?_,
      ?_, ?_, q6⟩
    · exact fun hq => absurd (hp.symm.trans hq) (by decide)
    · exact fun _ => r1
    · exact fun _ => r2
    · exact fun _ i hi => hlisted i (by simpa only [hinc] using hi)
    · exact fun _ hi => hsum (by simpa only [hinc] using hi)
  · exact ht.inv ⟨hwf, b2, b3, by show (s.bufLen + 1).toNat ≤ 65539; omega, hfl, b6, b7⟩
      hst.2.2.2.1 hst.2.2.2.2.2.1

theorem Inv.rxDrain {l : List Byte} {s : State} (h : Inv s) :
    ∃ t, rxDrain l s = .ok t ∧ Inv t := by
  induction l generalizing s with
  | nil => exact ⟨s, rfl, h⟩
  | cons b l ih =>
    by_cases hp : s.phase = .rx
    · obtain ⟨t, e, ht⟩ :=
        Inv.rxByte (s := { s with transport := { s.transport with rx := l } }) b h hp
      rw [rxDrain_cons hp e]
      exact ih ht
    · exact ⟨s, rxDrain_stop hp, h⟩

theorem Inv.clearPolls {s : State} (h : Inv s) : Inv { s with idlePolls := 0 } := by
  obtain ⟨h1, h2, q1, q2, q3, q4, q5, -⟩ := h
  exact ⟨h1, h2, q1, q2, q3, q4, q5, fun _ => Nat.lt_of_lt_of_le Nat.zero_lt_one (Nat.le_max_right _ _)⟩

/-- A poll answers and keeps the invariant. -/
theorem Inv.pollTick {s : State} (h : Inv s) : ∃ t, pollTickStep s = .ok t ∧ Inv t := by
  cases hp : s.phase with
  | idle => exact ⟨s, pollTickStep_idle hp, h⟩
  | tx => exact ⟨_, pollTickStep_tx hp, h.idlePoll (by simp [hp])⟩
  | rx =>
    rw [pollTickStep_rx hp]
    split
    · exact ⟨_, rfl, h.idlePoll (by simp [hp])⟩
    · exact h.clearPolls.rxDrain

end Sys2Proof.Machine
end

