-- ==== Sys2Proof/Laws/PerInstr.lean ====
section
/-! SUPPORT. Facts about every instruction as syntax, one lemma for each constructor (LAWS.json
"per_instruction"). TableRow: the encoder's word, under the mask of the instruction's row in
spec/opcode_table.json, is that row's match. -/

namespace Sys2Proof.Laws.TableRow

/-- The mask and the match of each row, as the table writes them. -/
def row : Instr → HostWord × HostWord
  | .rdId _ => (0xFF00000000, 0x0000000000)
  | .rdCtrl _ => (0xFF00000000, 0x0400000000)
  | .rdStatus _ => (0xFF00000000, 0x0800000000)
  | .rdOpcode _ => (0xFF00000000, 0x1000000000)
  | .rdAddress _ => (0xFF00000000, 0x1400000000)
  | .rdArgCount _ => (0xFF00000000, 0x1800000000)
  | .rdBufPtr _ => (0xFF00000000, 0x2000000000)
  | .rdBufData _ => (0xFF00000000, 0x2400000000)
  | .rdBufLen _ => (0xFF00000000, 0x2800000000)
  | .rdCrc _ => (0xFF00000000, 0x2C00000000)
  | .rdTimeoutPolls _ => (0xFF00000000, 0x3400000000)
  | .rdIdlePolls _ => (0xFF00000000, 0x3800000000)
  | .rdFrameLen _ => (0xFF00000000, 0x3C00000000)
  | .rdRxOpcode _ => (0xFF00000000, 0x4000000000)
  | .rdRxAddr _ => (0xFF00000000, 0x4400000000)
  | .rdStatusIndex _ => (0xFF00000000, 0x4800000000)
  | .wrCtrl _ => (0xFF00000000, 0x8400000000)
  | .wrOpcode _ => (0xFF00000000, 0x9000000000)
  | .wrAddress _ => (0xFF00000000, 0x9400000000)
  | .wrArgData _ => (0xFF00000000, 0x9C00000000)
  | .wrBufPtr _ => (0xFF00000000, 0xA000000000)
  | .wrBufData _ => (0xFF00000000, 0xA400000000)
  | .wrBufLen _ => (0xFF00000000, 0xA800000000)
  | .wrCrcData _ => (0xFF00000000, 0xB000000000)
  | .wrTimeoutPolls _ => (0xFF00000000, 0xB400000000)
  | .wrStatusIndex _ => (0xFF00000000, 0xC800000000)
  | .crcInit _ => (0xFF000000FF, 0x8C00000001)
  | .crcBuf _ => (0xFF000000FF, 0x8C00000002)
  | .argClear _ => (0xFF000000FF, 0x8C00000003)
  | .encode _ => (0xFF000000FF, 0x8C00000004)
  | .decode _ => (0xFF000000FF, 0x8C00000005)
  | .transact _ => (0xFF000000FF, 0x8C00000006)
  | .flush _ => (0xFF000000FF, 0x8C00000007)
  | .wireRead => (0xFF, 0x01)
  | .wireWrite => (0xFF, 0x02)

/-- An operation word's bits as the table numbers them. -/
def bits : OpWord → HostWord
  | .host w => w
  | .wire b => b.setWidth 40

/-- The encoded instruction matches its row. -/
def Statement (i : Instr) : Prop := bits (encode i) &&& (row i).1 = (row i).2

theorem host_row (w : Bool) (off : BitVec 7) (data : Word) (m : HostWord)
    (h : mkHostWord w off 0 = m) : mkHostWord w off data &&& 0xFF00000000 = m :=
  (mkHostWord_and_head w off data).trans h

theorem command_row (code : BitVec 8) (ignored : BitVec 24) (m : HostWord)
    (h : mkHostWord true 0x0C (0#24 ++ code) = m) :
    mkHostWord true 0x0C (ignored ++ code) &&& 0xFF000000FF = m :=
  (mkHostWord_and_command true 0x0C ignored code).trans h

theorem rdId (data : Word) : Statement (.rdId data) := host_row _ _ _ _ rfl

theorem rdCtrl (data : Word) : Statement (.rdCtrl data) := host_row _ _ _ _ rfl

theorem rdStatus (data : Word) : Statement (.rdStatus data) := host_row _ _ _ _ rfl

theorem rdOpcode (data : Word) : Statement (.rdOpcode data) := host_row _ _ _ _ rfl

theorem rdAddress (data : Word) : Statement (.rdAddress data) := host_row _ _ _ _ rfl

theorem rdArgCount (data : Word) : Statement (.rdArgCount data) := host_row _ _ _ _ rfl

theorem rdBufPtr (data : Word) : Statement (.rdBufPtr data) := host_row _ _ _ _ rfl

theorem rdBufData (data : Word) : Statement (.rdBufData data) := host_row _ _ _ _ rfl

theorem rdBufLen (data : Word) : Statement (.rdBufLen data) := host_row _ _ _ _ rfl

theorem rdCrc (data : Word) : Statement (.rdCrc data) := host_row _ _ _ _ rfl

theorem rdTimeoutPolls (data : Word) : Statement (.rdTimeoutPolls data) := host_row _ _ _ _ rfl

theorem rdIdlePolls (data : Word) : Statement (.rdIdlePolls data) := host_row _ _ _ _ rfl

theorem rdFrameLen (data : Word) : Statement (.rdFrameLen data) := host_row _ _ _ _ rfl

theorem rdRxOpcode (data : Word) : Statement (.rdRxOpcode data) := host_row _ _ _ _ rfl

theorem rdRxAddr (data : Word) : Statement (.rdRxAddr data) := host_row _ _ _ _ rfl

theorem rdStatusIndex (data : Word) : Statement (.rdStatusIndex data) := host_row _ _ _ _ rfl

theorem wrCtrl (data : Word) : Statement (.wrCtrl data) := host_row _ _ _ _ rfl

theorem wrOpcode (data : Word) : Statement (.wrOpcode data) := host_row _ _ _ _ rfl

theorem wrAddress (data : Word) : Statement (.wrAddress data) := host_row _ _ _ _ rfl

theorem wrArgData (data : Word) : Statement (.wrArgData data) := host_row _ _ _ _ rfl

theorem wrBufPtr (data : Word) : Statement (.wrBufPtr data) := host_row _ _ _ _ rfl

theorem wrBufData (data : Word) : Statement (.wrBufData data) := host_row _ _ _ _ rfl

theorem wrBufLen (data : Word) : Statement (.wrBufLen data) := host_row _ _ _ _ rfl

theorem wrCrcData (data : Word) : Statement (.wrCrcData data) := host_row _ _ _ _ rfl

theorem wrTimeoutPolls (data : Word) : Statement (.wrTimeoutPolls data) := host_row _ _ _ _ rfl

theorem wrStatusIndex (data : Word) : Statement (.wrStatusIndex data) := host_row _ _ _ _ rfl

theorem crcInit (ignored : BitVec 24) : Statement (.crcInit ignored) :=
  command_row _ _ _ rfl

theorem crcBuf (ignored : BitVec 24) : Statement (.crcBuf ignored) :=
  command_row _ _ _ rfl

theorem argClear (ignored : BitVec 24) : Statement (.argClear ignored) :=
  command_row _ _ _ rfl

theorem encode (ignored : BitVec 24) : Statement (.encode ignored) :=
  command_row _ _ _ rfl

theorem decode (ignored : BitVec 24) : Statement (.decode ignored) :=
  command_row _ _ _ rfl

theorem transact (ignored : BitVec 24) : Statement (.transact ignored) :=
  command_row _ _ _ rfl

theorem flush (ignored : BitVec 24) : Statement (.flush ignored) :=
  command_row _ _ _ rfl

theorem wireRead : Statement .wireRead := by unfold Statement; decide

theorem wireWrite : Statement .wireWrite := by unfold Statement; decide

end Sys2Proof.Laws.TableRow
end

