-- ==== Sys2Proof/Tests/Slice0.lean ====
section
/-! SUPPORT. The model's own tests: the words of every constructor, single steps with results from
spec/95_test_vectors.md and the rules' own examples, and a witness for the hypotheses of every statement. -/

namespace Sys2Proof.Tests

open Sys2Proof.Machine

/-! ### Helpers -/

/-- The next state of an outcome, if it is one. -/
def answer : Host.Outcome State Fault Refusal → Option State
  | .next s => some s
  | .fault _ => none
  | .refused _ => none

theorem next_of_answer {o : Host.Outcome State Fault Refusal} {t : State} (h : answer o = some t) :
    o = .next t := by
  cases o <;> simp_all [answer]

/-- The next state of an outcome that has one. -/
def nextOf (o : Host.Outcome State Fault Refusal) : State := (answer o).getD State.reset

theorem next_nextOf {o : Host.Outcome State Fault Refusal} (h : (answer o).isSome = true) :
    o = .next (nextOf o) := by
  cases o <;> simp_all [answer, nextOf]

/-- FB[0 .. n) = bs and nothing else written. -/
def fbOf (bs : List Byte) : Memory := (List.range bs.length).zip bs

/-- The reset state with `bs` loaded as by `bufload` (BUF_PTR left at 0). -/
def loaded (bs : List Byte) : State :=
  { State.reset with fb := fbOf bs, bufLen := BitVec.ofNat 17 bs.length }

/-- A TRANSACT in phase RX that has received `got`, whose FRAME_LEN is `fl`, with `queue` in T.rx. -/
def receiving (got : List Byte) (fl : BitVec 17) (queue : List Byte) : State :=
  { loaded got with
    phase := .rx, frameLen := fl, status := { State.reset.status with busy := true }
    transport := { rx := queue, txq := [], wire := [] } }

/-- A TRANSACT in phase TX that sends `bs`, `n` of them already accepted. -/
def sending (bs : List Byte) (n : Nat) : State :=
  { loaded bs with
    phase := .tx, txLen := bs.length, txIdx := n
    status := { State.reset.status with busy := true } }

/-- STATUS after a step, as the host reads it. -/
def statusAfter (o : Host.Outcome State Fault Refusal) : Option Word :=
  (answer o).map fun t => statusWord t.status

/-- The read of 0x5021 as ENCODE builds it, and the responses of spec/95_test_vectors.md 2.4. -/
def request : List Byte := [0x52, 0x42, 0x05, 0x00, 0x01, 0x21, 0x50, 0xE2, 0x4B]
def rsp0 : List Byte := [0x52, 0x42, 0x05, 0x00, 0x00, 0x21, 0x50, 0xB3, 0x8B]
def rsp1 : List Byte :=
  [0x52, 0x42, 0x08, 0x00, 0x01, 0x21, 0x50, 0x01, 0x02, 0x03, 0x47, 0xFE]
def rspE : List Byte := [0x52, 0x42, 0x06, 0x00, 0x81, 0x21, 0x50, 0x02, 0x63, 0x7B]

/-! ### Well-formedness: a read word's DATA is 0 (R70) -/

theorem test_wf_refuses_reads_with_data :
    Instr.wf (.rdId 1) = false ∧ Instr.wf (.rdCtrl 1) = false ∧ Instr.wf (.rdStatus 1) = false ∧
    Instr.wf (.rdOpcode 1) = false ∧ Instr.wf (.rdAddress 1) = false ∧
    Instr.wf (.rdArgCount 1) = false ∧ Instr.wf (.rdBufPtr 1) = false ∧
    Instr.wf (.rdBufData 1) = false ∧ Instr.wf (.rdBufLen 1) = false ∧
    Instr.wf (.rdCrc 0x80000000) = false ∧ Instr.wf (.rdTimeoutPolls 1) = false ∧
    Instr.wf (.rdIdlePolls 1) = false ∧ Instr.wf (.rdFrameLen 1) = false ∧
    Instr.wf (.rdRxOpcode 1) = false ∧ Instr.wf (.rdRxAddr 1) = false ∧
    Instr.wf (.rdStatusIndex 1) = false := by decide

theorem test_wf_admits_the_rest :
    Instr.wf (.rdId 0) = true ∧ Instr.wf (.rdStatusIndex 0) = true ∧
    Instr.wf (.wrCtrl 0xFFFFFFFF) = true ∧ Instr.wf (.transact 0xFFFFFF) = true ∧
    Instr.wf .wireWrite = true := by decide

/-! ### Decoding: words written out from W, OFF and DATA (R70, R22, R73, R79) -/

theorem test_decode_reads_00_to_1C :
    decodeTableWord 40 0x0000000000 = some (.rdId 0) ∧
    decodeTableWord 40 0x0400000000 = some (.rdCtrl 0) ∧
    decodeTableWord 40 0x0800000000 = some (.rdStatus 0) ∧
    decodeTableWord 40 0x1000000000 = some (.rdOpcode 0) ∧
    decodeTableWord 40 0x1400000000 = some (.rdAddress 0) ∧
    decodeTableWord 40 0x1800000000 = some (.rdArgCount 0) := by decide

theorem test_decode_reads_20_to_48 :
    decodeTableWord 40 0x2000000000 = some (.rdBufPtr 0) ∧
    decodeTableWord 40 0x2400000000 = some (.rdBufData 0) ∧
    decodeTableWord 40 0x2800000000 = some (.rdBufLen 0) ∧
    decodeTableWord 40 0x2C00000000 = some (.rdCrc 0) ∧
    decodeTableWord 40 0x3400000000 = some (.rdTimeoutPolls 0) ∧
    decodeTableWord 40 0x3800000000 = some (.rdIdlePolls 0) ∧
    decodeTableWord 40 0x3C00000000 = some (.rdFrameLen 0) ∧
    decodeTableWord 40 0x4000000000 = some (.rdRxOpcode 0) ∧
    decodeTableWord 40 0x4400000000 = some (.rdRxAddr 0) ∧
    decodeTableWord 40 0x4800000000 = some (.rdStatusIndex 0) := by decide

theorem test_decode_writes :
    decodeTableWord 40 0x8400000301 = some (.wrCtrl 0x301) ∧
    decodeTableWord 40 0x9000000002 = some (.wrOpcode 0x02) ∧
    decodeTableWord 40 0x9400005111 = some (.wrAddress 0x5111) ∧
    decodeTableWord 40 0x9C000000FF = some (.wrArgData 0xFF) ∧
    decodeTableWord 40 0xA000000007 = some (.wrBufPtr 7) ∧
    decodeTableWord 40 0xA400000031 = some (.wrBufData 0x31) ∧
    decodeTableWord 40 0xA800000009 = some (.wrBufLen 9) ∧
    decodeTableWord 40 0xB000000031 = some (.wrCrcData 0x31) ∧
    decodeTableWord 40 0xB400000003 = some (.wrTimeoutPolls 3) ∧
    decodeTableWord 40 0xC8DEADBEEF = some (.wrStatusIndex 0xDEADBEEF) := by decide

theorem test_decode_commands :
    decodeTableWord 40 0x8C00000001 = some (.crcInit 0) ∧
    decodeTableWord 40 0x8C00000002 = some (.crcBuf 0) ∧
    decodeTableWord 40 0x8C00000003 = some (.argClear 0) ∧
    decodeTableWord 40 0x8C00000004 = some (.encode 0) ∧
    decodeTableWord 40 0x8C00000104 = some (.encode 1) ∧
    decodeTableWord 40 0x8C00000005 = some (.decode 0) ∧
    decodeTableWord 40 0x8C00000006 = some (.transact 0) ∧
    decodeTableWord 40 0x8C80000007 = some (.flush 0x800000) := by decide

theorem test_decode_wire :
    decodeTableWord 8 0x01 = some .wireRead ∧ decodeTableWord 8 0x02 = some .wireWrite ∧
    decode (.wire 0x00) = .error (.wireOpcode 0x00) ∧
    decode (.wire 0x81) = .error (.wireOpcode 0x81) := by decide

theorem test_decode_rejects_by_name :
    decode (.host 0x0A00000000) = .error (.misaligned false) ∧
    decode (.host 0x8D00000004) = .error (.misaligned true) ∧
    decode (.host 0x5000000000) = .error (.reservedOffset false) ∧
    decode (.host 0xCC00000000) = .error (.reservedOffset true) ∧
    decode (.host 0xFC00000000) = .error (.reservedOffset true) ∧
    decode (.host 0xAC00000000) = .error .readOnlyWrite ∧
    decode (.host 0x0C00000000) = .error .writeOnlyRead ∧
    decode (.host 0x8C00000000) = .error .illegalCommand ∧
    decode (.host 0x8C00000108) = .error .illegalCommand := by decide

theorem test_encode_words :
    encode (.wrAddress 0x5111) = .host 0x9400005111 ∧ encode (.encode 1) = .host 0x8C00000104 ∧
    encode (.rdStatus 0) = .host 0x0800000000 ∧ encode .wireWrite = .wire 0x02 := by decide

/-! ### Register reads (40_host_interface.md section 3; H1-H5) -/

theorem test_reads_at_reset :
    (answer (exec (.rdId 0) State.reset)).map State.rdata = some 0x5242A001 ∧
    (answer (exec (.rdCtrl 0) State.reset)).map State.rdata = some 0x00000601 ∧
    (answer (exec (.rdStatus 0) State.reset)).map State.rdata = some 0 ∧
    (answer (exec (.rdTimeoutPolls 0) State.reset)).map State.rdata = some 10 ∧
    (answer (exec (.rdStatusIndex 0) State.reset)).map State.rdata = some 4 ∧
    (answer (exec (.rdCrc 0) State.reset)).map State.rdata = some 0xFFFF := by decide

theorem test_reads_of_the_request_registers :
    (answer (exec (.rdOpcode 0) { State.reset with opcode := 0xFF })).map State.rdata = some 0xFF ∧
    (answer (exec (.rdAddress 0) { State.reset with address := 0x5021 })).map State.rdata =
      some 0x5021 ∧
    (answer (exec (.rdArgCount 0) { State.reset with arg := [1, 2, 3] })).map State.rdata = some 3 ∧
    (answer (exec (.rdBufPtr 0) { State.reset with bufPtr := 65539 })).map State.rdata =
      some 65539 ∧
    (answer (exec (.rdBufLen 0) (loaded request))).map State.rdata = some 9 := by decide

theorem test_reads_of_the_response_registers :
    (answer (exec (.rdIdlePolls 0) { State.reset with idlePolls := 10 })).map State.rdata =
      some 10 ∧
    (answer (exec (.rdFrameLen 0) { State.reset with frameLen := 65539 })).map State.rdata =
      some 65539 ∧
    (answer (exec (.rdRxOpcode 0) { State.reset with rxOpcode := 0x81 })).map State.rdata =
      some 0x81 ∧
    (answer (exec (.rdRxAddr 0) { State.reset with rxAddr := 0x5021 })).map State.rdata =
      some 0x5021 := by decide

/-- R112's example and a DEVICE_ERROR of T6. -/
theorem test_rdStatus_layout :
    statusWord { State.reset.status with done := true, err := true, errCode := .timeout } =
      0x00000506 ∧
    statusWord
      { State.reset.status with
        done := true, err := true, fields := true, errCode := .deviceError, devCode := 0x81 } =
      0x00810716 := by decide

/-- E16: the first read of E1's frame returns 0x52 and leaves BUF_PTR = 1. -/
theorem test_rdBufData_returns_and_advances :
    (answer (exec (.rdBufData 0) (loaded request))).map (fun t => (t.rdata, t.bufPtr)) =
      some (0x52, 1) := by decide

/-- H19. -/
theorem test_rdBufData_at_the_end :
    (answer (exec (.rdBufData 0) { State.reset with bufPtr := 65539 })).map
      (fun t => (t.rdata, t.bufPtr, t.status.accessFault)) = some (0, 65539, true) := by decide

/-! ### Register writes (section 4; H14-H24) -/

theorem test_writes_keep_their_low_bits :
    (answer (exec (.wrCtrl 0xFFFFFFFF) State.reset)).map (fun t => ctrlWord t.ctrl) = some 0x701 ∧
    (answer (exec (.wrOpcode 0x1FF) State.reset)).map State.opcode = some 0xFF ∧
    (answer (exec (.wrAddress 0x12345021) State.reset)).map State.address = some 0x5021 ∧
    (answer (exec (.wrTimeoutPolls 0x12345) State.reset)).map State.timeoutPolls = some 0x2345 ∧
    (answer (exec (.wrStatusIndex 0x10007) State.reset)).map State.statusIndex = some 7 := by
  decide

theorem test_writes_clamp :
    (answer (exec (.wrBufPtr 0x1FFFF) State.reset)).map State.bufPtr = some 65539 ∧
    (answer (exec (.wrBufPtr 0x2FFFF) State.reset)).map State.bufPtr = some 65535 ∧
    (answer (exec (.wrBufLen 70000) State.reset)).map State.bufLen = some 65539 := by decide

/-- H20's first write. -/
theorem test_wrBufData_stores :
    (answer (exec (.wrBufData 0x177) { State.reset with bufPtr := 65538 })).map
      (fun t => (t.fb, t.bufPtr, t.bufLen)) = some ([(65538, 0x77)], 65539, 0) := by decide

/-- H20's second write. -/
theorem test_wrBufData_at_the_end :
    (answer (exec (.wrBufData 0x88) { State.reset with bufPtr := 65539 })).map
      (fun t => (t.fb, t.bufPtr, t.status.accessFault)) = some ([], 65539, true) := by decide

theorem test_wrArgData_appends :
    (answer (exec (.wrArgData 0x1FF) { State.reset with arg := [1] })).map State.arg =
      some [1, 0xFF] := by decide

/-- K14, K15. -/
theorem test_wrCrcData_folds :
    (answer (exec (.wrCrcData 0x1FF) State.reset)).map (fun t => (t.crc, t.status)) =
      some (0x00FF, State.reset.status) := by decide

/-- T22, R104. -/
theorem test_writes_are_locked_while_busy :
    (answer (exec (.wrTimeoutPolls 5) (receiving [] 0 []))).map
      (fun t => (t.timeoutPolls, statusWord t.status)) = some (10, 0x21) := by decide

/-! ### Commands -/

/-- K13, H10. -/
theorem test_crcInit :
    (answer (exec (.crcInit 0)
      { State.reset with
        crc := 0x1234, status := { State.reset.status with accessFault := true } })).map
      (fun t => (t.crc, statusWord t.status)) = some (0xFFFF, 0x2) := by decide

/-- K9 and K1. -/
theorem test_crcBuf :
    (answer (exec (.crcBuf 0) (loaded [0x52, 0x42]))).map State.crc = some 0xE1BC ∧
    (answer (exec (.crcBuf 0) State.reset)).map State.crc = some 0xFFFF := by decide +kernel

theorem test_argClear :
    (answer (exec (.argClear 0) { State.reset with arg := [1, 2] })).map
      (fun t => (argCount t, statusWord t.status)) = some (0, 0x2) := by decide

/-- E1. -/
theorem test_encode_read :
    (answer (exec (.encode 0) { State.reset with opcode := 1, address := 0x5021 })).map
      (fun t => (t.fb, t.bufLen, t.frameLen, t.crc, statusWord t.status)) =
      some (fbOf request, 9, 9, 0x4BE2, 0x2) := by decide +kernel

/-- E4, and E10. -/
theorem test_encode_write_and_bad_opcode :
    (answer (exec (.encode 0)
      { State.reset with opcode := 2, address := 0x5117, arg := [1] })).map State.fb =
      some (fbOf [0x52, 0x42, 0x06, 0x00, 0x02, 0x17, 0x51, 0x01, 0xEB, 0x60]) ∧
    statusAfter (exec (.encode 0) State.reset) = some 0x906 := by decide +kernel

/-- D10. -/
theorem test_decode_valid :
    (answer (exec (.decode 0) (loaded request))).map
      (fun t => (t.rxOpcode, t.rxAddr, t.frameLen, t.crc, statusWord t.status)) =
      some (0x01, 0x5021, 9, 0x4BE2, 0x1A) := by decide +kernel

/-- D1, D6, D8a, D9, D11, D14. -/
theorem test_decode_checks :
    statusAfter (exec (.decode 0) State.reset) = some 0x306 ∧
    statusAfter (exec (.decode 0) (loaded [0x52, 0x43, 0x05, 0x00])) = some 0x106 ∧
    statusAfter (exec (.decode 0) (loaded [0x52, 0x42, 0x01, 0x00])) = some 0x406 ∧
    statusAfter (exec (.decode 0) (loaded (request.take 8))) = some 0x306 ∧
    statusAfter (exec (.decode 0) (loaded (request.take 8 ++ [0x4C]))) = some 0x206 ∧
    statusAfter (exec (.decode 0) (loaded [0x52, 0x42, 0x02, 0x00, 0xB1, 0xE8])) = some 0xA := by
  decide +kernel

/-- R172's example and its corner case tx_len = 0. -/
theorem test_transact_starts :
    (answer (exec (.transact 0) (loaded request))).map
      (fun t => (t.phase, t.txLen, statusWord t.status)) = some (.tx, 9, 0x1) ∧
    (answer (exec (.transact 0) State.reset)).map (fun t => (t.phase, t.bufLen)) =
      some (.rx, 0) := by decide

/-- T22. -/
theorem test_transact_while_busy :
    statusAfter (exec (.transact 0) (receiving [] 0 [])) = some 0x41 := by decide

theorem test_flush :
    (answer (exec (.flush 0)
      { State.reset with transport := { rx := [1], txq := [2], wire := [3] } })).map
      State.transport = some { rx := [], txq := [], wire := [3] } := by decide

/-- R79 and R174: byte 4 of the request of a read is 0x01, and goes to T.txq. -/
theorem test_wireRead :
    (answer (exec .wireRead (sending request 4))).map (fun t => (t.transport.txq, t.txIdx)) =
      some ([0x01], 5) ∧
    answer (exec .wireWrite (sending request 4)) = some (sending request 4) := by decide

/-- The same of a write (E4's frame), at its byte 4 only. -/
theorem test_wireWrite :
    let write : List Byte := [0x52, 0x42, 0x06, 0x00, 0x02, 0x17, 0x51, 0x01, 0xEB, 0x60]
    (answer (exec .wireWrite (sending write 4))).map (fun t => (t.transport.txq, t.txIdx)) =
      some ([0x02], 5) ∧
    answer (exec .wireWrite (sending write 3)) = some (sending write 3) := by decide

/-! ### Refused accesses (H6-H9, H11-H13) -/

theorem test_refused_accesses :
    statusAfter (act (.op (.host 0x88000000FF)) State.reset) = some 0x20 ∧
    statusAfter (act (.op (.host 0x5000000000)) State.reset) = some 0x20 ∧
    statusAfter (act (.op (.host 0x8C00000000)) State.reset) = some 0xA06 ∧
    statusAfter (act (.op (.host 0x8C00000108)) State.reset) = some 0xA06 ∧
    statusAfter (act (.op (.host 0x8C00000104)) State.reset) = some 0x906 := by decide

theorem test_narrow_access :
    statusAfter (act (.access { write := true, addr := 0x0C, width := 1, data := 4 })
      State.reset) = some 0x20 ∧
    statusAfter (act (.access { write := false, addr := 0x0A, width := 4, data := 0 })
      State.reset) = some 0x20 := by decide

/-! ### Engine and transport steps -/

/-- R174's example: the ninth accept moves to RX. -/
theorem test_accept_last :
    (answer (act .txAccept (sending request 8))).map
      (fun t => (t.phase, t.bufLen, t.transport.txq)) = some (.rx, 0, [0x4B]) := by decide

/-- T1 and T18: one poll receives the frame, and the flush drops the bytes after it. -/
theorem test_poll_completes :
    (answer (act .pollTick (receiving [] 0 (rsp1 ++ [0xAA, 0xBB])))).map
      (fun t => (statusWord t.status, t.bufLen, t.frameLen, t.crc, t.transport.rx)) =
      some (0x1A, 12, 12, 0xFE47, []) := by decide +kernel

/-- T2, T6, T15 and T16b. -/
theorem test_poll_ends_in_error :
    statusAfter (act .pollTick (receiving [] 0 rsp0)) = some 0x716 ∧
    statusAfter (act .pollTick (receiving [] 0 rspE)) = some 0x810716 ∧
    statusAfter (act .pollTick (receiving [] 0 [0x52, 0x42, 0x00, 0x00])) = some 0x406 ∧
    statusAfter (act .pollTick (receiving [] 0 (rsp1.take 11 ++ [0xFF]))) = some 0x206 := by
  decide +kernel

/-- T12, T13, T7: MALFORMED, and no status check with STATUS_EN = 0. -/
theorem test_poll_status_byte :
    statusAfter (act .pollTick { receiving [] 0 rsp1 with statusIndex := 10 }) = some 0x816 ∧
    statusAfter (act .pollTick (receiving [] 0 [0x52, 0x42, 0x02, 0x00, 0xB1, 0xE8])) =
      some 0x806 ∧
    statusAfter (act .pollTick
      { receiving [] 0 rspE with ctrl := { statusEn := false, ackMask := 6 } }) = some 0x1A := by
  decide +kernel

/-- T17's third poll and T17a. -/
theorem test_poll_times_out :
    (answer (act .pollTick { receiving [] 0 [] with timeoutPolls := 3, idlePolls := 2 })).map
      (fun t => (statusWord t.status, t.idlePolls)) = some (0x506, 3) ∧
    statusAfter (act .pollTick { receiving [] 0 [] with timeoutPolls := 0 }) = some 0x506 := by
  decide

/-- T21. -/
theorem test_ioFail :
    (answer (act (.ioFail { rx := [], txq := [], wire := [] })
      { receiving [0x52, 0x42, 0x08] 0 [] with bufPtr := 2 })).map
      (fun t => (statusWord t.status, t.bufLen, t.bufPtr)) = some (0x606, 3, 0) := by decide

/-- T23. -/
theorem test_reset_in_rx :
    (answer (act .reset (receiving [0x52, 0x42, 0x08] 0 [0x11]))).map
      (fun t => (statusWord t.status, t.bufLen, t.fb, t.transport.rx)) =
      some (0, 0, [], [0x11]) := by decide

/-- A table word placed by withFetchWord is what the next step runs. -/
theorem test_withFetchWord :
    statusAfter (step (State.reset.withFetchWord 40 0x8C00000001)) = some 0x2 ∧
    (answer (step ((sending request 4).withFetchWord 8 0x01))).map State.txIdx = some 5 := by
  decide

/-! ### Witnesses: states and operands that meet the hypotheses of the statements, and each clause's
boundary values -/

theorem witness_EncodeOfDecodeIsTheWord :
    decode (.host 0x8C00000106) = .ok (.transact 1) ∧ decode (.wire 0x02) = .ok .wireWrite := by
  decide

/-- One value for each clause at both ends of its range. -/
theorem witness_WordsThatAreNoRowAreRejectedByTheirRule :
    (0x01 : BitVec 7).toNat % 4 ≠ 0 ∧ (0x7F : BitVec 7).toNat % 4 ≠ 0 ∧
    ((0x4C : BitVec 7).toNat % 4 = 0 ∧ 0x4C ≤ (0x4C : BitVec 7).toNat) ∧
    ((0x7C : BitVec 7).toNat % 4 = 0 ∧ 0x4C ≤ (0x7C : BitVec 7).toNat) ∧
    (0x00 : BitVec 7) ∈ [(0x00 : BitVec 7), 0x08, 0x18, 0x2C, 0x38, 0x3C, 0x40, 0x44] ∧
    (0x44 : BitVec 7) ∈ [(0x00 : BitVec 7), 0x08, 0x18, 0x2C, 0x38, 0x3C, 0x40, 0x44] ∧
    (0x30 : BitVec 7) ∈ [(0x0C : BitVec 7), 0x1C, 0x30] ∧
    (0x100 : Word).toNat % 256 = 0 ∧ 8 ≤ (0x08 : Word).toNat % 256 ∧
    8 ≤ (0xFF : Word).toNat % 256 := by decide

theorem witness_StepRunsTheDecodedInstruction :
    { State.reset with inputs := [.op (.host 0x8C00000001)] }.inputs =
      [Event.op (.host 0x8C00000001)] ∧
    decode (.host 0x8C00000001) = .ok (.crcInit 0) := by decide

/-- The lowest and the highest register of the window. -/
theorem witness_AlignedAccessAtBaseIsTheOffsetsOperation (off : BitVec 7)
    (h : off = 0x00 ∨ off = 0x7C) :
    let a : HostAccess := { write := true, addr := Config.base + off.toNat, width := 4, data := 1 }
    (off.toNat = 0 ∨ off.toNat = 124) ∧ a.addr = Config.base + off.toNat ∧ a.width = 4 ∧
    { State.reset with inputs := [.access a] }.inputs = .access a :: [] := by
  rcases h with rfl | rfl <;> simp

/-- The last index of FB. -/
theorem witness_UnwrittenBytesAreFreeDraws :
    65538 < 65539 ∧ Memory.get (loaded request).fb 65538 = none := by decide

theorem witness_NarrowOrMisalignedAccessIsRefused :
    ({ write := true, addr := 0x0C, width := 1, data := 4 } : HostAccess).width ≠ 4 ∧
    ({ write := false, addr := 0x0C, width := 8, data := 0 } : HostAccess).width ≠ 4 ∧
    ({ write := false, addr := 0x0A, width := 4, data := 0 } : HostAccess).addr % 4 ≠ 0 := by
  decide

theorem witness_ReservedOffsetIsRefused :
    ((0x4C : BitVec 7).toNat % 4 = 0 ∧ 0x4C ≤ (0x4C : BitVec 7).toNat) ∧
    ((0x7C : BitVec 7).toNat % 4 = 0 ∧ 0x4C ≤ (0x7C : BitVec 7).toNat) := by decide

theorem witness_WriteToReadOnlyRegisterIsRefused :
    (0x2C : BitVec 7) ∈ [(0x00 : BitVec 7), 0x08, 0x18, 0x2C, 0x38, 0x3C, 0x40, 0x44] := by decide

theorem witness_ReadOfWriteOnlyRegisterReturnsZero :
    (0x1C : BitVec 7) ∈ [(0x0C : BitVec 7), 0x1C, 0x30] := by decide

/-- Both clauses, with the illegal codes next to the legal ones. -/
theorem witness_IllegalCommandEndsInIllegalCmd :
    ((0x00 : Word).toNat % 256 = 0 ∧ 8 ≤ (0x108 : Word).toNat % 256) ∧
    State.reset.status.busy = false ∧ (receiving [] 0 []).status.busy = true := by decide

theorem witness_CommandWhileBusyIsRejected : (receiving [] 0 []).status.busy = true := by decide

theorem witness_RegisterWritesAreLockedWhileBusy :
    (sending request 0).status.busy = true ∧
    Instr.wrBufData 5 ∈
      [Instr.wrCtrl 5, .wrOpcode 5, .wrAddress 5, .wrArgData 5, .wrBufPtr 5, .wrBufData 5,
        .wrBufLen 5, .wrCrcData 5, .wrTimeoutPolls 5, .wrStatusIndex 5] := by decide

theorem witness_HostCannotDisturbARunningTransact :
    (Event.op (.host 0x8C00000007)).isHost = true ∧
    (Event.access { write := false, addr := 0x24, width := 4, data := 0 }).isHost = true ∧
    (receiving [] 0 []).status.busy = true := by decide

/-- R112's corner case: a running TRANSACT that meets the invariant. -/
theorem witness_ReadsOfIdCtrlAndStatus :
    (Inv (receiving [0x52] 0 []) ∧ (receiving [0x52] 0 []).status.busy = true) ∧
    ((ErrCode.illegalCmd, (0xA : BitVec 4)) ∈
        [(ErrCode.noError, (0x0 : BitVec 4)), (.illegalCmd, 0xA)] ∧
      (doneStatus false false .illegalCmd 0).errCode = (ErrCode.illegalCmd, (0xA : BitVec 4)).1) := by
  refine ⟨⟨?_, ?_⟩, ?_, ?_⟩ <;> decide +kernel

theorem witness_ReadsOfTheRequestAndBufferRegisters : Inv { State.reset with arg := [1, 2, 3] } := by
  decide +kernel

/-- Each clause: BUSY, BUF_PTR at its end, and the last and a listed byte. -/
theorem witness_BufDataReadReturnsTheByteAndAdvances :
    (receiving [] 0 []).status.busy = true ∧
    { State.reset with bufPtr := 65539 }.bufPtr.toNat = 65539 ∧
    ({ State.reset with bufPtr := 65538 }.status.busy = false ∧
      { State.reset with bufPtr := 65538 }.bufPtr.toNat < 65539) ∧
    Memory.get (loaded request).fb (loaded request).bufPtr.toNat = some 0x52 := by decide

theorem witness_UnimplementedBitsReadZero :
    Inv (loaded request) ∧ ⟨0x24, "BUF_DATA", .rw, 0x000000FF⟩ ∈ registerMap := by decide +kernel

theorem witness_CtrlWriteStoresItsTwoFields :
    State.reset.status.busy = false ∧ 0 < 3 ∧ 2 < 3 := by decide

theorem witness_PlainWritesStoreTheLowBits : State.reset.status.busy = false := by decide

/-- The clamp's two sides (H17, H18). -/
theorem witness_PointerAndLengthWritesClamp :
    State.reset.status.busy = false ∧ (0x1FFFF : Word).toNat % 2 ^ 17 = 131071 ∧
    (0x2FFFF : Word).toNat % 2 ^ 17 = 65535 := by decide

theorem witness_BufDataWriteStoresOneByteAndAdvances :
    State.reset.status.busy = false ∧
    { State.reset with bufPtr := 65539 }.bufPtr.toNat = 65539 ∧
    { State.reset with bufPtr := 65538 }.bufPtr.toNat < 65539 := by decide

/-- ARG full, and one byte short of it. -/
theorem witness_ArgDataWriteAppendsOneByte :
    { State.reset with arg := List.replicate 65530 0 }.status.busy = false ∧
    argCount { State.reset with arg := List.replicate 65530 0 } = 65530 ∧
    argCount { State.reset with arg := List.replicate 65529 0 } ≠ 65530 := by
  refine ⟨rfl, List.length_replicate, ?_⟩
  rw [show argCount { State.reset with arg := List.replicate 65529 0 } = 65529 from
    List.length_replicate]
  decide

theorem witness_CrcDataWriteFoldsOneByte : State.reset.status.busy = false := by decide

theorem witness_SmallCommandsDoTheirOneEffect : (loaded request).status.busy = false := by decide

theorem witness_CrcBufComputesTheBuffersChecksum :
    (loaded request).status.busy = false ∧ (loaded request).bufLen.toNat ≤ 65539 ∧
    FbHolds (loaded request) request := by
  unfold FbHolds
  decide

/-- The largest argument. -/
theorem witness_BuildRequestLaysOutTheFrame : (List.replicate 65530 (0 : Byte)).length ≤ 65530 :=
  Nat.le_of_eq List.length_replicate

/-- Both clauses: a bad opcode, and each good one. -/
theorem witness_EncodeBuildsTheRequestInTheFrameBuffer :
    (State.reset.status.busy = false ∧ State.reset.opcode ≠ 0x01 ∧ State.reset.opcode ≠ 0x02) ∧
    { State.reset with opcode := 1 }.opcode = 0x01 ∧
    { State.reset with opcode := 2 }.opcode = 0x02 ∧
    argCount { State.reset with opcode := 2, arg := [1] } ≤ 65530 := by decide

theorem witness_DecodeIsTheCheckOfTheBufferedBytes :
    (loaded request).status.busy = false ∧ request.length = (loaded request).bufLen.toNat ∧
    request.length ≤ 65539 ∧ FbHolds (loaded request) request := by
  unfold FbHolds
  decide

/-- A buffer of unwritten bytes meets the hypotheses too. -/
theorem witness_DecodeAlwaysEndsAndKeepsTheRest :
    { State.reset with bufLen := 65539 }.status.busy = false ∧
    { State.reset with bufLen := 65539 }.bufLen.toNat ≤ 65539 := by decide

theorem witness_DecodeTwiceIsDecodeOnce :
    (loaded request).status.busy = false ∧ request.length = (loaded request).bufLen.toNat ∧
    request.length ≤ 65539 ∧ FbHolds (loaded request) request ∧
    exec (.decode 0) (loaded request) = .next (nextOf (exec (.decode 0) (loaded request))) := by
  refine ⟨by decide, by decide, by decide, by unfold FbHolds; decide, next_nextOf ?_⟩
  decide +kernel

theorem witness_EncodeThenDecodeRoundTrips :
    { State.reset with opcode := 2, arg := [1, 0] }.status.busy = false ∧
    { State.reset with opcode := 2, arg := [1, 0] }.opcode = 0x02 ∧
    argCount { State.reset with opcode := 2, arg := [1, 0] } ≤ 65530 := by decide

theorem witness_EncodeEmitsOnlyTheWireOpcodes :
    { State.reset with opcode := 1 }.status.busy = false ∧
    argCount { State.reset with opcode := 1 } ≤ 65530 := by decide

/-- Byte 4 in the middle of a request, as its last byte, and each way of not being sent. -/
theorem witness_WireOpcodesTransmitRequestFrameByteFour :
    (Instr.wireRead, (0x01 : Byte)) ∈ [(Instr.wireRead, 0x01), (Instr.wireWrite, 0x02)] ∧
    ((sending request 4).phase = .tx ∧ (sending request 4).txIdx = 4 ∧
      Memory.get (sending request 4).fb 4 = some 0x01 ∧ (sending request 4).txLen ≠ 5) ∧
    ((sending (request.take 5) 4).txLen = 5 ∧
      Memory.get (sending (request.take 5) 4).fb 4 = some 0x01) ∧
    State.reset.phase ≠ .tx ∧ (sending request 3).txIdx ≠ 4 ∧
    (∃ c, c ≠ 0x02 ∧ Memory.get (sending request 4).fb 4 = some c) := by
  refine ⟨by decide, by decide, by decide, by decide, by decide, 0x01, ?_⟩
  decide

theorem witness_TransactStartsTransmittingOrReceiving :
    ((loaded request).status.busy = false ∧ (loaded request).bufLen ≠ 0) ∧
    (State.reset.status.busy = false ∧ State.reset.bufLen = 0) := by decide

/-- A byte in the middle, and the last one. -/
theorem witness_AcceptSendsTheNextByte :
    ((sending request 0).phase = .tx ∧ (sending request 0).txIdx < 65539 ∧
      (sending request 0).txIdx + 1 ≠ (sending request 0).txLen) ∧
    ((sending request 8).phase = .tx ∧ (sending request 8).txIdx < 65539 ∧
      (sending request 8).txIdx + 1 = (sending request 8).txLen) ∧
    Memory.get (sending request 8).fb 8 = some 0x4B := by decide

theorem witness_TransmittedBytesAreTheBuffersInOrder :
    Inv (sending request 3) ∧ (sending request 3).phase = .tx ∧ Event.txAccept.isAgent = true ∧
    (∀ a, Event.txAccept ≠ .ioFail a) ∧
    act .txAccept (sending request 3) = .next (nextOf (act .txAccept (sending request 3))) ∧
    (nextOf (act .txAccept (sending request 3))).phase ≠ .idle := by
  refine ⟨by decide +kernel, by decide, by decide, by simp, next_nextOf ?_, ?_⟩ <;> decide

/-- Both branches in both phases: below the threshold, and at it. -/
theorem witness_PollWithoutProgressCountsToTheTimeout :
    (Inv (sending request 3) ∧ (sending request 3).phase = .tx) ∧
    (Inv (receiving [] 0 []) ∧ (receiving [] 0 []).phase = .rx ∧
      (receiving [] 0 []).transport.rx = []) ∧
    (Inv { receiving [] 0 [] with timeoutPolls := 3, idlePolls := 2 } ∧
      max { receiving [] 0 [] with timeoutPolls := 3, idlePolls := 2 }.timeoutPolls.toNat 1 ≤
        { receiving [] 0 [] with timeoutPolls := 3, idlePolls := 2 }.idlePolls.toNat + 1) := by
  refine ⟨⟨?_, ?_⟩, ⟨?_, ?_, ?_⟩, ?_, ?_⟩ <;> decide +kernel

theorem witness_PollReceivesByteByByteWhileInRx :
    Inv (receiving [0x52] 0 [0x42, 0x08]) ∧ (receiving [0x52] 0 [0x42, 0x08]).phase = .rx ∧
    (receiving [0x52] 0 [0x42, 0x08]).transport.rx = 0x42 :: [0x08] := by decide +kernel

/-- The fourth byte, an earlier one and a frame's last one. -/
theorem witness_ReceivedByteIsStoredAndMayCompleteTheFrame :
    (Inv (receiving [0x52, 0x42, 0x08] 0 []) ∧ (receiving [0x52, 0x42, 0x08] 0 []).phase = .rx ∧
      (receiving [0x52, 0x42, 0x08] 0 []).bufLen.toNat = 3 ∧
      Memory.get (receiving [0x52, 0x42, 0x08] 0 []).fb 2 = some 0x08) ∧
    (Inv (receiving [0x52] 0 []) ∧ (receiving [0x52] 0 []).phase = .rx ∧
      (receiving [0x52] 0 []).bufLen.toNat ≠ 3) ∧
    (Inv (receiving (request.take 8) 9 []) ∧ (receiving (request.take 8) 9 []).phase = .rx ∧
      (receiving (request.take 8) 9 []).bufLen.toNat + 1 =
        (receiving (request.take 8) 9 []).frameLen.toNat) := by
  refine ⟨⟨?_, ?_, ?_, ?_⟩, ⟨?_, ?_, ?_⟩, ?_, ?_, ?_⟩ <;> decide +kernel

theorem witness_FinishIsTheCheckOfTheReceivedBytes :
    4 ≤ request.length ∧ request.length ≤ 65539 ∧
    request.length = (receiving request 9 []).frameLen.toNat ∧
    FbHolds (receiving request 9 []) request := by
  unfold FbHolds
  decide

theorem witness_SuccessClearsTheTransportAndLeavesTheFrame :
    Inv (receiving [] 0 (rsp1 ++ [0xAA])) ∧ (receiving [] 0 (rsp1 ++ [0xAA])).phase = .rx ∧
    act .pollTick (receiving [] 0 (rsp1 ++ [0xAA])) =
      .next (nextOf (act .pollTick (receiving [] 0 (rsp1 ++ [0xAA])))) ∧
    (nextOf (act .pollTick (receiving [] 0 (rsp1 ++ [0xAA])))).status.valid = true := by
  refine ⟨by decide +kernel, by decide, next_nextOf ?_, ?_⟩ <;> decide +kernel

theorem witness_IoFailureEndsARunningTransact :
    State.reset.phase = .idle ∧ (sending request 2).phase ≠ .idle ∧
    (receiving [] 0 []).phase ≠ .idle := by decide

theorem witness_TransportStepsAndIdleSteps :
    State.reset.transport.txq = [] ∧
    { State.reset with transport := { rx := [], txq := [7, 8], wire := [] } }.transport.txq =
      7 :: [8] ∧
    State.reset.phase = .idle := by decide

/-- Ready by either form of acceptance, not ready, and each phase but TX. -/
theorem witness_TransportAcceptsExactlyWhenReady :
    let s : State := { sending request 4 with inputs := [.txAccept] }
    let w : State := { sending request 4 with inputs := [.op (.wire 0x01)] }
    let n : State := { sending request 4 with inputs := [.op (.wire 0x02)] }
    (Inv s ∧ Inv w ∧ Inv n) ∧ (s.phase = .tx ∧ w.phase = .tx ∧ n.phase = .tx) ∧
    (step s = .next (nextOf (step s)) ∧ step w = .next (nextOf (step w)) ∧
      step n = .next (nextOf (step n))) ∧
    (s.tReady = true ∧ w.tReady = true ∧ n.tReady = false) ∧
    (receiving [] 0 []).phase ≠ .tx ∧ State.reset.phase ≠ .tx := by
  refine ⟨⟨?_, ?_, ?_⟩, by decide, ⟨next_nextOf ?_, next_nextOf ?_, next_nextOf ?_⟩, by decide,
    by decide, by decide⟩ <;> decide +kernel

/-- T20: one chunk against two, with a byte too many. -/
theorem witness_ChunkingDoesNotChangeTheResponse :
    let s := receiving [] 0 []
    let E₁ : List Event := [.arrive (rsp1 ++ [0xAA]), .pollTick]
    let E₂ : List Event := [.arrive (rsp1.take 5), .pollTick, .arrive (rsp1.drop 5 ++ [0xAA]),
      .pollTick]
    (Inv s ∧ s.phase = .rx ∧ s.bufLen = 0) ∧
    (∀ e ∈ E₁ ++ E₂, e = .pollTick ∨ ∃ bs, e = .arrive bs) ∧
    E₁.flatMap Event.arriving = E₂.flatMap Event.arriving ∧
    runEvents E₁ s = .next (nextOf (runEvents E₁ s)) ∧
    runEvents E₂ s = .next (nextOf (runEvents E₂ s)) ∧
    ((nextOf (runEvents E₁ s)).phase = .idle ∧ (nextOf (runEvents E₂ s)).phase = .idle ∧
      (nextOf (runEvents E₁ s)).status.errCode ≠ .timeout ∧
      (nextOf (runEvents E₂ s)).status.errCode ≠ .timeout ∧
      (nextOf (runEvents E₁ s)).status.valid = true) ∧
    E₁ = [.arrive (rsp1 ++ [0xAA])] ++ [.pollTick] ∧
    runEvents [.arrive (rsp1 ++ [0xAA])] s =
      .next (nextOf (runEvents [.arrive (rsp1 ++ [0xAA])] s)) ∧
    (nextOf (runEvents [.arrive (rsp1 ++ [0xAA])] s)).phase = .rx := by
  refine ⟨by decide +kernel, ?_, by decide, next_nextOf ?_, next_nextOf ?_, by decide +kernel, rfl,
    next_nextOf ?_, by decide⟩
  · simp
  · decide +kernel
  · decide +kernel
  · decide

/-- TIMEOUT_POLLS = 1, the request's 9 bytes unsent, and as many polls as the bound. -/
theorem witness_TransactCompletesWithinThePollBound :
    let s := { sending request 0 with timeoutPolls := 1 }
    let E := List.replicate 65550 Event.pollTick
    Inv s ∧ s.status.busy = true ∧ (∀ e ∈ E, e.isAgent = true) ∧
    (s.txLen + 65541) * max s.timeoutPolls.toNat 1 ≤ E.count .pollTick := by
  refine ⟨by decide +kernel, by decide, ?_, ?_⟩
  · intro e he
    rw [(List.mem_replicate.1 he).2]
    rfl
  · rw [List.count_replicate_self]
    decide

theorem witness_ResponseIsNotMatchedToTheRequest :
    Inv (receiving [] 0 rsp1) ∧ (receiving [] 0 rsp1).phase = .rx ∧
    act .pollTick (receiving [] 0 rsp1) = .next (nextOf (act .pollTick (receiving [] 0 rsp1))) := by
  refine ⟨by decide +kernel, by decide, next_nextOf ?_⟩
  decide +kernel

theorem witness_EveryStepKeepsTheInvariant :
    Inv { receiving [] 0 rsp1 with inputs := [.pollTick] } ∧
    step { receiving [] 0 rsp1 with inputs := [.pollTick] } =
      .next (nextOf (step { receiving [] 0 rsp1 with inputs := [.pollTick] })) := by
  refine ⟨by decide +kernel, next_nextOf ?_⟩
  decide +kernel

theorem witness_NoStepStopsTheMachine :
    Inv (loaded request) ∧ Inv (sending request 4) ∧ Inv (receiving [] 0 rsp1) := by
  refine ⟨?_, ?_, ?_⟩ <;> decide +kernel

/-- ACCESS_FAULT and REJECTED both cleared, by an accepted command. -/
theorem witness_StickyIndicatorsLastUntilACommandOrReset :
    let s : State :=
      { State.reset with
        status := { State.reset.status with accessFault := true, rejected := true } }
    let e : Event := .op (.host 0x8C00000001)
    Inv s ∧ act e s = .next (nextOf (act e s)) ∧
    (s.status.accessFault = true ∧ (nextOf (act e s)).status.accessFault = false) ∧
    (s.status.rejected = true ∧ (nextOf (act e s)).status.rejected = false) := by
  refine ⟨by decide +kernel, next_nextOf ?_, ?_⟩ <;> decide

/-- VALID set by a DECODE and by a poll, and cleared by a CMD write. -/
theorem witness_ValidIsTheResultOfDecodeOrTransact :
    (Inv (loaded request) ∧
      act (.op (.host 0x8C00000005)) (loaded request) =
        .next (nextOf (act (.op (.host 0x8C00000005)) (loaded request))) ∧
      (loaded request).status.valid = false ∧
      (Event.op (.host 0x8C00000005)).writesCmd = true ∧ (loaded request).status.busy = false ∧
      (nextOf (act (.op (.host 0x8C00000005)) (loaded request))).status.valid = true) ∧
    (Inv (receiving [] 0 rsp1) ∧ (receiving [] 0 rsp1).status.valid = false ∧
      (nextOf (act .pollTick (receiving [] 0 rsp1))).status.valid = true) ∧
    (let s := nextOf (act (.op (.host 0x8C00000005)) (loaded request))
     Inv s ∧ s.status.valid = true ∧
      (nextOf (act (.op (.host 0x8C00000001)) s)).status.valid = false) := by
  refine ⟨⟨by decide +kernel, next_nextOf ?_, ?_⟩, ?_, ?_⟩ <;> decide +kernel

theorem witness_OnlyFlushLetsTheHostTouchTheTransport :
    Inv { State.reset with transport := { rx := [1], txq := [2], wire := [] } } ∧
    (Event.op (.host 0x8C00000007)).isHost = true ∧
    act (.op (.host 0x8C00000007))
      { State.reset with transport := { rx := [1], txq := [2], wire := [] } } =
      .next (nextOf (act (.op (.host 0x8C00000007))
        { State.reset with transport := { rx := [1], txq := [2], wire := [] } })) ∧
    (nextOf (act (.op (.host 0x8C00000007))
      { State.reset with transport := { rx := [1], txq := [2], wire := [] } })).transport =
      { rx := [], txq := [], wire := [] } := by
  refine ⟨by decide +kernel, by decide, next_nextOf ?_, ?_⟩ <;> decide

theorem witness_BusLanesAreLittleEndian : 0 < 4 ∧ 3 < 4 := by decide

theorem witness_MissingFrameBufferIndexFaults :
    65539 ≤ 65539 ∧
    ({ State.reset with bufPtr := 65540 }.status.busy = false ∧
      { State.reset with bufPtr := 65540 }.bufPtr.toNat = 65540 ∧ 65539 < 65540) := by decide

end Sys2Proof.Tests
end

section
/-! PROOFS. What a host access does, said once (40_host_interface.md R100-R109): either it is no
accepted command and has an `AccessEffect`, or it is a CMD write that was accepted and ran a
`Command`'s body. -/

namespace Sys2Proof.Machine

/-! ### Accesses that run no command -/

/-- The effect of a host access that runs no command: it reports to the host, by the value it reads and
the sticky indicators, or it reads or writes a register at rest (R104, R105). -/
inductive AccessEffect (s t : State) : Prop
  /-- Nothing changes but the value read and the sticky indicators, which are only set. -/
  | reported (v : Word) (af rj : Bool) (haf : s.status.accessFault = true → af = true)
      (hrj : s.status.rejected = true → rj = true)
      (ht : t = { s with
        rdata := v, status := { s.status with accessFault := af, rejected := rj } })
  /-- While BUSY = 0 a register takes a value in range. -/
  | stored (hbusy : s.status.busy = false) (hphase : t.phase = s.phase)
      (hstatus : t.status = s.status) (htransport : t.transport = s.transport)
      (hbounds : BoundsOk s → BoundsOk t)

theorem AccessEffect.returnRead (v : Word) (s : State) : AccessEffect s (returnRead v s) :=
  .reported v s.status.accessFault s.status.rejected id id rfl

theorem AccessEffect.raiseAccessFault (s : State) : AccessEffect s (raiseAccessFault s) :=
  .reported s.rdata true s.status.rejected (fun _ => rfl) id rfl

theorem AccessEffect.raiseRejected (s : State) : AccessEffect s (raiseRejected s) :=
  .reported s.rdata s.status.accessFault true id (fun _ => rfl) rfl

theorem AccessEffect.refuseAccess (w : Bool) (s : State) : AccessEffect s (refuseAccess w s) := by
  cases w
  · exact .reported 0 true s.status.rejected (fun _ => rfl) id rfl
  · exact .raiseAccessFault s

/-- A read without a side effect. -/
theorem AccessEffect.readRegister {v : Word} {s t : State} (e : readRegister v s = .next t) :
    AccessEffect s t := by
  cases e
  exact .returnRead v s

theorem AccessEffect.lockedWrite {body : State → Except Fault State} {s t : State}
    (e : lockedWrite body s = .next t)
    (hbody : s.status.busy = false → body s = .ok t → AccessEffect s t) : AccessEffect s t := by
  rcases lockedWrite_next e with ⟨-, rfl⟩ | ⟨hb, e⟩
  · exact .raiseAccessFault s
  · exact hbody hb e

theorem clampToFb_le (v : BitVec 17) : (clampToFb v).toNat ≤ 65539 := by
  unfold clampToFb
  split
  · assumption
  · decide

/-- Below FB's end the next BUF_PTR does not wrap and stays in range. -/
theorem bufPtr_succ_le {p : BitVec 17} (h : p.toNat ≤ 65539)
    (hne : p ≠ BitVec.ofNat 17 Config.fbCap) : (p + 1).toNat ≤ 65539 := by
  have hne' : p.toNat ≠ 65539 := fun he => hne (BitVec.eq_of_toNat_eq he)
  have hinc : (p + 1).toNat = p.toNat + 1 := by
    rw [BitVec.toNat_add]
    simp
    omega
  omega

theorem AccessEffect.readBufData {s t : State} (hb : s.status.busy = false)
    (e : readBufData s = .ok t) : AccessEffect s t := by
  unfold Machine.readBufData at e
  split at e
  · cases e
    exact .refuseAccess false s
  · rename_i hne
    cases er : fbRead s.bufPtr.toNat s with
    | error f => simp [er, bind, Except.bind] at e
    | ok r =>
      obtain ⟨b, u⟩ := r
      obtain ⟨-, d, rfl⟩ := fbRead_ok er
      simp only [er, bind, Except.bind] at e
      cases e
      exact .stored hb rfl rfl rfl fun ⟨b1, b2, b3, b4⟩ => ⟨b1, b2, bufPtr_succ_le b3 hne, b4⟩

theorem AccessEffect.writeBufData {data : Word} {s t : State} (hb : s.status.busy = false)
    (e : writeBufData data s = .ok t) : AccessEffect s t := by
  unfold Machine.writeBufData at e
  split at e
  · cases e
    exact .raiseAccessFault s
  · rename_i hne
    cases ew : fbWrite s.bufPtr.toNat (data8 data) s with
    | error f => simp [ew, bind, Except.bind] at e
    | ok u =>
      obtain ⟨hi, rfl⟩ := fbWrite_ok ew
      simp only [ew, bind, Except.bind] at e
      cases e
      exact .stored hb rfl rfl rfl fun ⟨b1, b2, b3, b4⟩ =>
        ⟨Memory.set_wf _ _ _ hi b1, b2, bufPtr_succ_le b3 hne, b4⟩

theorem AccessEffect.appendArg {data : Word} {s t : State} (hb : s.status.busy = false)
    (e : appendArg data s = .ok t) : AccessEffect s t := by
  unfold Machine.appendArg at e
  split at e
  · cases e
    exact .raiseAccessFault s
  · rename_i hne
    cases e
    refine .stored hb rfl rfl rfl fun ⟨b1, b2, b3⟩ => ⟨b1, ?_, b3⟩
    simp only [argCount, Config.argCap, List.length_append, List.length_singleton] at b2 hne ⊢
    omega

/-- The decodings whose access runs no command and is no wire word: the register reads and writes, and
the refused accesses (R100-R103). -/
def accessesRegister : Except Reject Instr → Bool
  | .ok (.crcInit _) | .ok (.crcBuf _) | .ok (.argClear _) | .ok (.encode _) | .ok (.decode _) => false
  | .ok (.transact _) | .ok (.flush _) | .error .illegalCommand => false
  | .ok .wireRead | .ok .wireWrite | .error (.wireOpcode _) => false
  | .ok _ | .error _ => true

/-- Each register read or write has an `AccessEffect`. -/
theorem AccessEffect.exec {i : Instr} {s t : State} (hi : accessesRegister (.ok i) = true)
    (e : exec i s = .next t) : AccessEffect s t := by
  cases i with
  | rdId | rdCtrl | rdStatus | rdOpcode | rdAddress | rdArgCount | rdBufPtr | rdBufLen | rdCrc
  | rdTimeoutPolls | rdIdlePolls | rdFrameLen | rdRxOpcode | rdRxAddr | rdStatusIndex =>
    exact .readRegister e
  | rdBufData =>
    simp only [Machine.exec, execRdBufData] at e
    split at e
    · cases e
      exact .refuseAccess false s
    · rename_i hb
      exact .readBufData (Bool.eq_false_of_not_eq_true hb) (toOutcome_next e)
  | wrCtrl | wrOpcode | wrAddress | wrCrcData | wrTimeoutPolls | wrStatusIndex =>
    simp only [Machine.exec, execWrCtrl, execWrOpcode, execWrAddress, execWrCrcData,
      execWrTimeoutPolls, execWrStatusIndex] at e
    refine .lockedWrite e fun hb e => ?_
    cases e
    exact .stored hb rfl rfl rfl id
  | wrBufPtr =>
    simp only [Machine.exec, execWrBufPtr] at e
    refine .lockedWrite e fun hb e => ?_
    cases e
    exact .stored hb rfl rfl rfl fun ⟨b1, b2, _, b4⟩ => ⟨b1, b2, clampToFb_le _, b4⟩
  | wrBufLen =>
    simp only [Machine.exec, execWrBufLen] at e
    refine .lockedWrite e fun hb e => ?_
    cases e
    exact .stored hb rfl rfl rfl fun ⟨b1, b2, b3, _, b5⟩ => ⟨b1, b2, b3, clampToFb_le _, b5⟩
  | wrArgData => exact .lockedWrite e fun hb e => .appendArg hb e
  | wrBufData => exact .lockedWrite e fun hb e => .writeBufData hb e
  | crcInit | crcBuf | argClear | encode | decode | transact | flush | wireRead | wireWrite =>
    cases hi

/-- Each refused access has an `AccessEffect` (R100-R103). -/
theorem AccessEffect.rejectOp {r : Reject} {s t : State} (hr : accessesRegister (.error r) = true)
    (e : rejectOp r s = .next t) : AccessEffect s t := by
  cases r with
  | misaligned w | reservedOffset w => cases e; exact .refuseAccess w s
  | readOnlyWrite => cases e; exact .raiseAccessFault s
  | writeOnlyRead => cases e; exact .returnRead 0 s
  | illegalCommand | wireOpcode => cases hr

theorem AccessEffect.runOp {w : OpWord} {s t : State} (hw : accessesRegister (decode w) = true)
    (e : runOp w s = .next t) : AccessEffect s t := by
  cases hd : decode w with
  | ok i => exact .exec (hd ▸ hw) (runOp_ok hd s ▸ e)
  | error r => exact .rejectOp (hd ▸ hw) (runOp_error hd s ▸ e)

/-! ### Which host words are CMD writes -/

theorem accessesRegister_decodeRead (off : BitVec 7) (data : Word) :
    accessesRegister (decodeRead off data) = true := by
  unfold decodeRead
  split <;> rfl

theorem accessesRegister_decodeWrite {off : BitVec 7} (data : Word) (h : off ≠ 0x0C) :
    accessesRegister (decodeWrite off data) = true := by
  unfold decodeWrite
  split
  case h_4 he => exact absurd (BitVec.eq_of_toNat_eq he) h
  all_goals rfl

/-- A host word that is no CMD write runs no command. -/
theorem accessesRegister_decodeHost {w : HostWord} (h : (fieldW w && fieldOff w == 0x0C) = false) :
    accessesRegister (decodeHost w) = true := by
  unfold decodeHost decodeAccess
  split
  · rfl
  · split
    · rename_i hw
      exact accessesRegister_decodeWrite _ fun ho => by simp [hw, ho] at h
    · exact accessesRegister_decodeRead _ _

/-- A CMD write decodes by its code (R73). -/
theorem decodeHost_cmdWrite {w : HostWord} (h : (fieldW w && fieldOff w == 0x0C) = true) :
    decodeHost w = decodeCommand (fieldData w) := by
  obtain ⟨hw, ho⟩ : fieldW w = true ∧ fieldOff w = 0x0C := by simpa using h
  rw [decodeHost, hw, ho]
  rfl

/-! ### Commands -/

/-- The body that an accepted CMD write runs, for each decoding of its code (R73, R109). -/
inductive Command : Except Reject Instr → (State → Except Fault State) → Prop
  | crcInit (ignored : BitVec 24) : Command (.ok (.crcInit ignored)) crcInitBody
  | crcBuf (ignored : BitVec 24) : Command (.ok (.crcBuf ignored)) crcBufBody
  | argClear (ignored : BitVec 24) : Command (.ok (.argClear ignored)) argClearBody
  | encode (ignored : BitVec 24) : Command (.ok (.encode ignored)) encodeBody
  | decode (ignored : BitVec 24) : Command (.ok (.decode ignored)) decodeBody
  | transact (ignored : BitVec 24) : Command (.ok (.transact ignored)) transactBody
  | flush (ignored : BitVec 24) : Command (.ok (.flush ignored)) flushBody
  | illegal : Command (.error .illegalCommand) fun s => .ok (completeErr .illegalCmd s)

theorem exists_command_decodeCommand (data : Word) :
    ∃ body, Command (decodeCommand data) body := by
  unfold decodeCommand
  split <;> exact ⟨_, by constructor⟩

/-- A command's word is rejected while BUSY and else accepted and run (R106, R108). -/
theorem Command.runOp {w : OpWord} {body : State → Except Fault State}
    (h : Command (Sys2Proof.decode w) body) (s : State) : runOp w s = runCommand body s := by
  unfold Machine.runOp
  generalize Sys2Proof.decode w = d at h ⊢
  cases h <;> rfl

/-- What an accepted CMD write sets VALID to and does to the transport: only a DECODE can leave VALID
1 (R31), and only FLUSH touches the transport (R183). -/
theorem Command.frame {d : Except Reject Instr} {body : State → Except Fault State} {s t : State}
    (h : Command d body) (hs : Inv s) (e : body (accept s) = .ok t) :
    (t.status.valid = true → ∃ ignored, d = .ok (.decode ignored)) ∧
      (t.transport = s.transport ∨ (∃ ignored, d = .ok (.flush ignored)) ∧
        t.transport = { s.transport with rx := [], txq := [] }) := by
  obtain ⟨⟨-, harg, -, hlen, -⟩, -, -⟩ := hs
  cases h with
  | crcInit | argClear | illegal =>
    cases e
    exact ⟨nofun, .inl rfl⟩
  | crcBuf =>
    obtain ⟨bs, d, er, -⟩ :=
      fbReadRange_total s.bufLen.toNat 0 (accept s) (by rw [Config.fbCap]; omega)
    simp only [crcBufBody, accept_bufLen, er, bind, Except.bind] at e
    cases e
    exact ⟨nofun, .inl rfl⟩
  | encode =>
    unfold encodeBody at e
    split at e
    · cases e
      exact ⟨nofun, .inl rfl⟩
    · obtain ⟨m, em, -⟩ := emitRequest_total { accept s with frameLen := 0 } harg
      cases em.symm.trans e
      exact ⟨nofun, .inl rfl⟩
  | decode ignored =>
    obtain ⟨fl, op, ad, c, d, u, eu, -, hu⟩ := decodeBody_total (accept s) hlen
    cases eu.symm.trans e
    refine ⟨fun _ => ⟨ignored, rfl⟩, .inl ?_⟩
    rcases hu with ⟨c, -, rfl⟩ | ⟨f, rfl⟩ <;> rfl
  | transact =>
    unfold transactBody at e
    cases e
    split <;> exact ⟨nofun, .inl rfl⟩
  | flush ignored =>
    cases e
    exact ⟨nofun, .inr ⟨⟨ignored, rfl⟩, rfl⟩⟩

/-! ### Every host access -/

/-- A CMD write that is accepted (R106), and the command's body that it runs. -/
def AcceptedCommand (e : Event) (s t : State) : Prop :=
  e.writesCmd = true ∧ s.status.busy = false ∧ ∃ w body, e.word = some w ∧
    Command (decode w) body ∧ body (accept s) = .ok t

/-- A host's access is its operation word's step, or is refused for its width (R100). -/
theorem act_isHost {e : Event} (he : e.isHost = true) (s : State) :
    (∃ w, e.word = some (.host w) ∧ act e s = runOp (.host w) s) ∨
      (e.writesCmd = false ∧ ∃ write, act e s = .next (refuseAccess write s)) := by
  cases e with
  | op w =>
    cases w with
    | host w => exact .inl ⟨w, rfl, rfl⟩
    | wire b => cases he
  | access a =>
    by_cases hw : a.width = 4
    · obtain ⟨w, hword⟩ : ∃ w, wordOfAccess a = .host w := by
        unfold wordOfAccess
        split <;> exact ⟨_, rfl⟩
      exact .inl ⟨w, by simp [Event.word, hw, hword], by simp [runAccess, hw, hword]⟩
    · exact .inr ⟨by simp [Event.writesCmd, Event.word, hw], a.write, by simp [runAccess, hw]⟩
  | arrive | drain | txAccept | pollTick | ioFail | reset => cases he

/-- A host access is an accepted command or has an `AccessEffect`; a CMD write has the latter only
while BUSY (R108). -/
theorem act_host_cases {e : Event} {s t : State} (he : e.isHost = true) (h : act e s = .next t) :
    AcceptedCommand e s t ∨
      (AccessEffect s t ∧ (e.writesCmd = true → s.status.busy = true)) := by
  rcases act_isHost he s with ⟨w, hword, hact⟩ | ⟨hcmd, write, hact⟩
  · rw [hact] at h
    have hwrites : e.writesCmd = (fieldW w && fieldOff w == 0x0C) := by
      simp [Event.writesCmd, hword]
    cases hcmd : e.writesCmd with
    | false =>
      have hreg := accessesRegister_decodeHost (hwrites.symm.trans hcmd)
      exact .inr ⟨.runOp (w := .host w) hreg h, fun hc => (Bool.false_ne_true hc).elim⟩
    | true =>
      obtain ⟨body, hbody⟩ := exists_command_decodeCommand (fieldData w)
      rw [← decodeHost_cmdWrite (hwrites.symm.trans hcmd)] at hbody
      rw [Command.runOp (w := .host w) hbody] at h
      rcases runCommand_next h with ⟨hb, rfl⟩ | ⟨hb, hrun⟩
      · exact .inr ⟨.raiseRejected s, fun _ => hb⟩
      · exact .inl ⟨hcmd, hb, .host w, body, hword, hbody, hrun⟩
  · rw [hact] at h
    cases h
    exact .inr ⟨.refuseAccess write s, fun hc => (Bool.false_ne_true (hcmd ▸ hc)).elim⟩

end Sys2Proof.Machine
end

section
/-! PROOFS. The invariant at reset and through every step of every agent (10_state.md R47, R48). -/

namespace Sys2Proof.Machine

/-- Settles O54: FB lists nothing, every register is in range and the engine is IDLE. -/
theorem resetMeetsTheInvariant : Obligations.ResetMeetsTheInvariant := by
  unfold Obligations.ResetMeetsTheInvariant
  refine ⟨⟨Memory.empty_wf, ?_⟩, ?_, ?_⟩ <;> decide

theorem Inv.engineReset (s : State) : Inv (engineReset s) := resetMeetsTheInvariant

theorem Inv.phase_idle {s : State} (h : Inv s) (hb : s.status.busy = false) : s.phase = .idle := by
  by_contra hp
  exact Bool.false_ne_true (hb.symm.trans (h.busy_status hp).1)

theorem AccessEffect.inv {s t : State} (h : AccessEffect s t) (hs : Inv s) : Inv t := by
  cases h with
  | reported v af rj _ _ ht => exact ht ▸ hs
  | stored hbusy hphase hstatus _ hbounds =>
    exact hs.of_idle (hs.phase_idle hbusy) (hbounds hs.1) hstatus hphase

/-- An accepted command's body keeps the invariant. -/
theorem Command.inv {d : Except Reject Instr} {body : State → Except Fault State} {s t : State}
    (h : Command d body) (hs : Inv s) (hp : s.phase = .idle) (e : body (accept s) = .ok t) :
    Inv t := by
  cases h with
  | crcInit | flush =>
    cases e
    exact Inv.completeOk hs.1 rfl
  | argClear =>
    obtain ⟨⟨hwf, -, hrest⟩, -, -⟩ := hs
    cases e
    exact Inv.completeOk ⟨hwf, Nat.zero_le _, hrest⟩ rfl
  | crcBuf => exact crcBufBody_inv hs e
  | encode => exact encodeBody_inv hs e
  | decode => exact decodeBody_inv hs e
  | transact => exact transactBody_inv hs hp e
  | illegal =>
    cases e
    exact Inv.completeErr (by decide) hs.1 rfl (by simp)

/-- Every agent's step, and a reset, keeps the invariant. -/
theorem Inv.act {e : Event} {s t : State} (hs : Inv s) (h : act e s = .next t) : Inv t := by
  by_cases he : e.isHost = true
  · rcases act_host_cases he h with ⟨-, hb, w, body, -, hbody, hrun⟩ | ⟨heff, -⟩
    · exact hbody.inv hs (hs.phase_idle hb) hrun
    · exact heff.inv hs
  · cases e with
    | op w =>
      cases w with
      | host w => exact absurd rfl he
      | wire b => exact hs.transmitOpcode (toOutcome_next ((runOp_wire b s).symm.trans h))
    | access a => exact absurd rfl he
    | arrive bs => cases h; exact hs.arrive bs
    | drain => cases h; exact hs.drain
    | txAccept => exact hs.txAccept (toOutcome_next h)
    | pollTick =>
      obtain ⟨u, hu, hinv⟩ := hs.pollTick
      cases hu.symm.trans (toOutcome_next h)
      exact hinv
    | ioFail after => cases h; exact hs.ioFail after
    | reset => cases h; exact .engineReset s

/-- Settles O53: the schedule's first event acts in a state that differs by the schedule alone, and
its step keeps the invariant. -/
theorem everyStepKeepsTheInvariant : Obligations.EveryStepKeepsTheInvariant := by
  unfold Obligations.EveryStepKeepsTheInvariant
  intro s t hs h
  cases hin : s.inputs with
  | nil =>
    cases (step_nil hin).symm.trans h
    exact hs
  | cons e rest =>
    rw [step_cons hin, ← act_eq] at h
    exact (hs.setInputs rest).act h

end Sys2Proof.Machine
end

section
/-! PROOFS. What every step does to the sticky indicators, to VALID and to the transport (10_state.md
R31, R33, R34, R46). -/

namespace Sys2Proof.Machine

/-! ### The sticky indicators -/

/-- A set ACCESS_FAULT and a set REJECTED are still set. -/
structure KeepsIndicators (a b : Status) : Prop where
  accessFault : a.accessFault = true → b.accessFault = true
  rejected : a.rejected = true → b.rejected = true

theorem KeepsIndicators.refl (a : Status) : KeepsIndicators a a := ⟨id, id⟩

theorem KeepsIndicators.trans {a b c : Status} (h : KeepsIndicators a b)
    (h' : KeepsIndicators b c) : KeepsIndicators a c :=
  ⟨h'.accessFault ∘ h.accessFault, h'.rejected ∘ h.rejected⟩

theorem KeepsIndicators.of_eq {a b : Status} (h : b = a) : KeepsIndicators a b := h ▸ .refl b

theorem AccessEffect.keepsIndicators {s t : State} (h : AccessEffect s t) :
    KeepsIndicators s.status t.status := by
  cases h with
  | reported v af rj haf hrj ht => subst ht; exact ⟨haf, hrj⟩
  | stored _ _ hstatus => exact .of_eq hstatus

theorem idlePoll_keepsIndicators (s : State) : KeepsIndicators s.status (idlePoll s).status := by
  unfold idlePoll
  split <;> exact ⟨id, id⟩

theorem ioFailStep_keepsIndicators (after : Transport) (s : State) :
    KeepsIndicators s.status (ioFailStep after s).status := by
  unfold ioFailStep
  split <;> exact ⟨id, id⟩

theorem FinishEnd.keepsIndicators {u t : State} (h : FinishEnd u t) :
    KeepsIndicators u.status t.status := by
  rcases h with ⟨c, -, rfl⟩ | ⟨v, rfl⟩ | rfl <;> exact ⟨id, id⟩

theorem rxByte_keepsIndicators {b : Byte} {s t : State} (hs : RxLengths s)
    (e : rxByte b s = .ok t) : KeepsIndicators s.status t.status := by
  obtain ⟨fl, d, u, eu, -, -, -, -, -, hu⟩ := rxByte_total b s hs
  cases eu.symm.trans e
  rcases hu with ⟨rfl, -⟩ | ⟨-, -, op, ad, f, c, d', hend⟩
  · exact ⟨id, id⟩
  · exact ⟨hend.keepsIndicators.accessFault, hend.keepsIndicators.rejected⟩

theorem rxDrain_keepsIndicators {l : List Byte} {s t : State} (hs : Inv s)
    (e : rxDrain l s = .ok t) : KeepsIndicators s.status t.status := by
  induction l generalizing s with
  | nil => cases e; exact .refl _
  | cons b l ih =>
    by_cases hp : s.phase = .rx
    · have hs' : Inv { s with transport := { s.transport with rx := l } } := hs.setTransport _
      obtain ⟨u, eu, hu⟩ := hs'.rxByte b hp
      rw [rxDrain_cons hp eu] at e
      exact (rxByte_keepsIndicators (hs'.rxLengths hp) eu).trans (ih hu e)
    · cases (rxDrain_stop hp).symm.trans e
      exact .refl _

theorem pollTickStep_keepsIndicators {s t : State} (hs : Inv s) (e : pollTickStep s = .ok t) :
    KeepsIndicators s.status t.status := by
  cases hp : s.phase with
  | idle =>
    cases (pollTickStep_idle hp).symm.trans e
    exact .refl _
  | tx =>
    cases (pollTickStep_tx hp).symm.trans e
    exact idlePoll_keepsIndicators s
  | rx =>
    rw [pollTickStep_rx hp] at e
    split at e
    · cases e
      exact idlePoll_keepsIndicators s
    · have h := rxDrain_keepsIndicators hs.clearPolls e
      exact h

/-! ### Steps of the transport and the timer that leave STATUS -/

/-- TX_ACCEPT leaves STATUS (R174). -/
theorem txAcceptStep_status {s t : State} (e : txAcceptStep s = .ok t) : t.status = s.status := by
  cases hp : s.phase with
  | idle | rx =>
    simp only [txAcceptStep, hp] at e
    cases e
    rfl
  | tx =>
    cases er : fbRead s.txIdx s with
    | error f => simp [txAcceptStep, hp, er, bind, Except.bind] at e
    | ok r =>
      obtain ⟨b, u⟩ := r
      obtain ⟨-, d, rfl⟩ := fbRead_ok er
      simp only [txAcceptStep, hp, er, bind, Except.bind] at e
      cases e
      split <;> rfl

theorem transmitOpcode_status {b : Byte} {s t : State} (e : transmitOpcode b s = .ok t) :
    t.status = s.status := by
  rcases transmitOpcode_cases b s with ⟨-, -, e'⟩ | e'
  · exact txAcceptStep_status (e'.symm.trans e)
  · cases e'.symm.trans e
    rfl

theorem drain_status (s : State) : (drain s).status = s.status := by
  unfold drain
  split <;> rfl

/-- An event that is no host access, no poll, no I/O failure and no reset leaves STATUS. -/
def leavesStatus : Event → Bool
  | .op (.wire _) | .arrive _ | .drain | .txAccept => true
  | .op (.host _) | .access _ | .pollTick | .ioFail _ | .reset => false

theorem act_status {e : Event} {s t : State} (he : leavesStatus e = true)
    (h : act e s = .next t) : t.status = s.status := by
  cases e with
  | op w =>
    cases w with
    | host w => cases he
    | wire b => exact transmitOpcode_status (toOutcome_next ((runOp_wire b s).symm.trans h))
  | arrive bs => cases h; rfl
  | drain => cases h; exact drain_status s
  | txAccept => exact txAcceptStep_status (toOutcome_next h)
  | access | pollTick | ioFail | reset => cases he

/-- The kinds of events that are no host access, by what they can do to STATUS. -/
theorem leavesStatus_or_of_not_isHost {e : Event} (he : e.isHost = false) :
    leavesStatus e = true ∨ e = .pollTick ∨ (∃ after, e = .ioFail after) ∨ e = .reset := by
  cases e with
  | op w =>
    cases w with
    | host w => cases he
    | wire b => exact .inl rfl
  | access a => cases he
  | arrive | drain | txAccept => exact .inl rfl
  | pollTick => exact .inr (.inl rfl)
  | ioFail after => exact .inr (.inr (.inl ⟨after, rfl⟩))
  | reset => exact .inr (.inr (.inr rfl))

/-- Every step keeps the set indicators but an accepted command and a reset. -/
theorem act_keepsIndicators {e : Event} {s t : State} (hs : Inv s) (h : act e s = .next t) :
    AcceptedCommand e s t ∨ e = .reset ∨ KeepsIndicators s.status t.status := by
  cases he : e.isHost with
  | true =>
    rcases act_host_cases he h with hcmd | ⟨heff, -⟩
    · exact .inl hcmd
    · exact .inr (.inr heff.keepsIndicators)
  | false =>
    right
    rcases leavesStatus_or_of_not_isHost he with he | rfl | ⟨after, rfl⟩ | rfl
    · exact .inr (.of_eq (act_status he h))
    · exact .inr (pollTickStep_keepsIndicators hs (toOutcome_next h))
    · cases h
      exact .inr (ioFailStep_keepsIndicators after s)
    · exact .inl rfl

/-- Settles O56: only an accepted command and a reset lose a set indicator. -/
theorem stickyIndicatorsLastUntilACommandOrReset :
    Obligations.StickyIndicatorsLastUntilACommandOrReset := by
  unfold Obligations.StickyIndicatorsLastUntilACommandOrReset
  intro s t e hs h hcleared
  rcases act_keepsIndicators hs h with ⟨hcmd, hb, -⟩ | hreset | hkept
  · exact .inr ⟨hcmd, hb⟩
  · exact .inl hreset
  · rcases hcleared with ⟨hset, hclear⟩ | ⟨hset, hclear⟩
    · exact (Bool.false_ne_true (hclear.symm.trans (hkept.accessFault hset))).elim
    · exact (Bool.false_ne_true (hclear.symm.trans (hkept.rejected hset))).elim

/-! ### VALID -/

theorem AccessEffect.valid {s t : State} (h : AccessEffect s t) :
    t.status.valid = s.status.valid := by
  cases h with
  | reported v af rj _ _ ht => rw [ht]
  | stored _ _ hstatus => rw [hstatus]

theorem idlePoll_valid (s : State) : (idlePoll s).status.valid = s.status.valid := by
  unfold idlePoll
  split <;> rfl

theorem ioFailStep_valid (after : Transport) (s : State) :
    (ioFailStep after s).status.valid = s.status.valid := by
  unfold ioFailStep
  split <;> rfl

/-- Outside RX a poll leaves VALID. -/
theorem pollTickStep_valid {s t : State} (hp : s.phase ≠ .rx) (e : pollTickStep s = .ok t) :
    t.status.valid = s.status.valid := by
  cases hphase : s.phase with
  | idle => cases (pollTickStep_idle hphase).symm.trans e; rfl
  | tx => cases (pollTickStep_tx hphase).symm.trans e; exact idlePoll_valid s
  | rx => exact absurd hphase hp

theorem writesCmd_of_not_isHost {e : Event} (he : e.isHost = false) : e.writesCmd = false := by
  cases e with
  | op w =>
    cases w with
    | host w => cases he
    | wire b => rfl
  | access a => cases he
  | arrive | drain | txAccept | pollTick | ioFail | reset => rfl

/-- Every step leaves VALID but an accepted command, a poll in RX and a reset. -/
theorem act_valid_cases {e : Event} {s t : State} (h : act e s = .next t) :
    AcceptedCommand e s t ∨ (e = .pollTick ∧ s.phase = .rx) ∨
      (e = .reset ∧ t.status.valid = false) ∨
      (t.status.valid = s.status.valid ∧ (e.writesCmd = true → s.status.busy = true)) := by
  cases he : e.isHost with
  | true =>
    rcases act_host_cases he h with hcmd | ⟨heff, hbusy⟩
    · exact .inl hcmd
    · exact .inr (.inr (.inr ⟨heff.valid, hbusy⟩))
  | false =>
    have hw : e.writesCmd = true → s.status.busy = true := by simp [writesCmd_of_not_isHost he]
    right
    rcases leavesStatus_or_of_not_isHost he with he | rfl | ⟨after, rfl⟩ | rfl
    · exact .inr (.inr ⟨by rw [act_status he h], hw⟩)
    · by_cases hp : s.phase = .rx
      · exact .inl ⟨rfl, hp⟩
      · exact .inr (.inr ⟨pollTickStep_valid hp (toOutcome_next h), hw⟩)
    · cases h
      exact .inr (.inr ⟨ioFailStep_valid after s, hw⟩)
    · cases h
      exact .inr (.inl ⟨rfl, rfl⟩)

/-- After an accepted CMD write VALID is 1 only if the command was DECODE. -/
theorem AcceptedCommand.runs_decode {e : Event} {s t : State} (h : AcceptedCommand e s t)
    (hs : Inv s) (hvalid : t.status.valid = true) : ∃ ignored, e.runs (.decode ignored) := by
  obtain ⟨-, -, w, body, hword, hbody, hrun⟩ := h
  obtain ⟨ignored, hd⟩ := (hbody.frame hs hrun).1 hvalid
  exact ⟨ignored, w, hword, hd⟩

/-- VALID becomes 1 only by a DECODE or by a poll in RX. -/
theorem act_sets_valid {e : Event} {s t : State} (hs : Inv s) (h : act e s = .next t)
    (hclear : s.status.valid = false) (hset : t.status.valid = true) :
    (∃ ignored, e.runs (.decode ignored)) ∨ (e = .pollTick ∧ s.phase = .rx) := by
  rcases act_valid_cases h with hcmd | hpoll | ⟨-, hreset⟩ | ⟨hkept, -⟩
  · exact .inl (hcmd.runs_decode hs hset)
  · exact .inr hpoll
  · exact (Bool.false_ne_true (hreset.symm.trans hset)).elim
  · exact (Bool.false_ne_true (hclear.symm.trans (hkept.symm.trans hset))).elim

/-- VALID becomes 0 only by an accepted CMD write or a reset: in RX it is 0 before the poll. -/
theorem act_clears_valid {e : Event} {s t : State} (hs : Inv s) (h : act e s = .next t)
    (hset : s.status.valid = true) (hclear : t.status.valid = false) :
    e = .reset ∨ (e.writesCmd = true ∧ s.status.busy = false) := by
  rcases act_valid_cases h with ⟨hcmd, hb, -⟩ | ⟨-, hp⟩ | ⟨hreset, -⟩ | ⟨hkept, -⟩
  · exact .inr ⟨hcmd, hb⟩
  · obtain ⟨-, -, -, hvalid, -⟩ := hs.busy_status (by simp [hp])
    exact (Bool.false_ne_true (hvalid.symm.trans hset)).elim
  · exact .inl hreset
  · exact (Bool.false_ne_true (hclear.symm.trans (hkept.trans hset))).elim

/-- Settles O57. That VALID comes with DONE = 1 and ERR = 0 is a clause of the invariant, which the
step keeps. -/
theorem validIsTheResultOfDecodeOrTransact : Obligations.ValidIsTheResultOfDecodeOrTransact := by
  unfold Obligations.ValidIsTheResultOfDecodeOrTransact
  intro s t e hs h
  refine ⟨fun hclear hset => ?_, act_clears_valid hs h, fun hcmd hb hset => ?_⟩
  · obtain ⟨-, ⟨-, -, -, hvalid, -⟩, -⟩ := hs.act h
    exact ⟨act_sets_valid hs h hclear hset, hvalid hset⟩
  · rcases act_valid_cases h with haccepted | ⟨rfl, -⟩ | ⟨rfl, -⟩ | ⟨-, hbusy⟩
    · exact haccepted.runs_decode hs hset
    · cases hcmd
    · cases hcmd
    · exact (Bool.false_ne_true (hb.symm.trans (hbusy hcmd))).elim

/-! ### The transport -/

theorem AccessEffect.transport {s t : State} (h : AccessEffect s t) : t.transport = s.transport := by
  cases h with
  | reported v af rj _ _ ht => rw [ht]
  | stored _ _ _ htransport => exact htransport

/-- Settles O58: an accepted command touches the transport only if it is FLUSH, and no other access
does. -/
theorem onlyFlushLetsTheHostTouchTheTransport :
    Obligations.OnlyFlushLetsTheHostTouchTheTransport := by
  unfold Obligations.OnlyFlushLetsTheHostTouchTheTransport
  intro s t e hs he h
  rcases act_host_cases he h with ⟨-, -, w, body, hword, hbody, hrun⟩ | ⟨heff, -⟩
  · rcases (hbody.frame hs hrun).2 with hkept | ⟨⟨ignored, hd⟩, hflushed⟩
    · exact .inl hkept
    · exact .inr ⟨⟨ignored, w, hword, hd⟩, hflushed⟩
  · exact .inl heff.transport

/-! ### T.ready -/

/-- While BUSY a host access leaves tx_idx. -/
theorem act_host_txIdx {e : Event} {s t : State} (he : e.isHost = true)
    (hbusy : s.status.busy = true) (h : act e s = .next t) : t.txIdx = s.txIdx := by
  rcases act_host_cases he h with ⟨-, hb, -⟩ | ⟨heff, -⟩
  · exact (Bool.false_ne_true (hb.symm.trans hbusy)).elim
  · cases heff with
    | reported v af rj _ _ ht => rw [ht]
    | stored hb => exact (Bool.false_ne_true (hb.symm.trans hbusy)).elim

theorem idlePoll_txIdx (s : State) : (idlePoll s).txIdx = s.txIdx := by
  unfold idlePoll
  split <;> rfl

theorem drain_txIdx (s : State) : (drain s).txIdx = s.txIdx := by
  unfold drain
  split <;> rfl

theorem ioFailStep_txIdx (after : Transport) (s : State) :
    (ioFailStep after s).txIdx = s.txIdx := by
  unfold ioFailStep
  split <;> rfl

/-- TX_ACCEPT in phase TX takes a byte (R174). -/
theorem txAcceptStep_txIdx {s t : State} (hs : Inv s) (hp : s.phase = .tx)
    (e : txAcceptStep s = .ok t) : t.txIdx = s.txIdx + 1 := by
  obtain ⟨⟨-, -, -, -, -, -, hlen⟩, -, htx, -⟩ := hs
  obtain ⟨hlt, -⟩ := htx hp
  obtain ⟨u, eu, hu⟩ := txAcceptStep_tx hp (by rw [Config.fbCap]; omega)
  cases eu.symm.trans e
  exact hu

/-- TX_ACCEPT in another phase changes nothing (R184; log 9). -/
theorem txAcceptStep_of_ne_tx {s : State} (hp : s.phase ≠ .tx) : txAcceptStep s = .ok s := by
  unfold txAcceptStep
  split
  · exact absurd ‹_› hp
  all_goals rfl

/-- In phase TX an event takes a byte exactly when it accepts one. -/
theorem accepts_iff_txIdx {e : Event} {s t : State} (hs : Inv s) (hp : s.phase = .tx)
    (h : act e s = .next t) : e.accepts s = true ↔ t.txIdx = s.txIdx + 1 := by
  obtain ⟨hbusy, -⟩ := hs.busy_status (by simp [hp])
  have hnot (hkept : t.txIdx = s.txIdx) : ¬ t.txIdx = s.txIdx + 1 := by omega
  cases e with
  | op w =>
    cases w with
    | host w => exact iff_of_false Bool.false_ne_true (hnot (act_host_txIdx rfl hbusy h))
    | wire b =>
      have e := toOutcome_next ((runOp_wire b s).symm.trans h)
      by_cases hb : sendsOpcode b s
      · rw [transmitOpcode_enabled hb] at e
        exact iff_of_true (decide_eq_true hb) (txAcceptStep_txIdx hs hp e)
      · cases (transmitOpcode_disabled hb).symm.trans e
        exact iff_of_false (by simpa [Event.accepts] using hb) (hnot rfl)
  | access a => exact iff_of_false Bool.false_ne_true (hnot (act_host_txIdx rfl hbusy h))
  | arrive bs => cases h; exact iff_of_false Bool.false_ne_true (hnot (arrive_txIdx bs s))
  | drain => cases h; exact iff_of_false Bool.false_ne_true (hnot (drain_txIdx s))
  | txAccept => exact iff_of_true rfl (txAcceptStep_txIdx hs hp (toOutcome_next h))
  | pollTick =>
    cases (pollTickStep_tx hp).symm.trans (toOutcome_next h)
    exact iff_of_false Bool.false_ne_true (hnot (idlePoll_txIdx s))
  | ioFail after =>
    cases h
    exact iff_of_false Bool.false_ne_true (hnot (ioFailStep_txIdx after s))
  | reset => cases h; exact iff_of_false Bool.false_ne_true (Nat.succ_ne_zero _).symm

/-- Settles O49: T.ready is whether the schedule's first event accepts a byte; with no event none is
taken. -/
theorem transportAcceptsExactlyWhenReady : Obligations.TransportAcceptsExactlyWhenReady := by
  unfold Obligations.TransportAcceptsExactlyWhenReady
  refine ⟨fun s t hs hp h => ?_, fun s hp => by rw [act_txAccept, txAcceptStep_of_ne_tx hp]; rfl⟩
  unfold State.tReady
  cases hin : s.inputs with
  | nil =>
    cases (step_nil hin).symm.trans h
    simp
  | cons e rest =>
    rw [step_cons hin, ← act_eq] at h
    exact accepts_iff_txIdx (s := { s with inputs := rest }) (hs.setInputs rest) hp h

/-! ### Bytes of FB not written since reset -/

/-- Settles O8: reset empties FB, and a byte that FB does not list is drawn. -/
theorem unwrittenBytesAreFreeDraws : Obligations.UnwrittenBytesAreFreeDraws := by
  unfold Obligations.UnwrittenBytesAreFreeDraws
  intro s i hi
  exact ⟨⟨engineReset s, act_reset s, rfl⟩, fun hnone => fbRead_unlisted hi hnone⟩

end Sys2Proof.Machine
end

section
/-! PROOFS. Every bit that a register does not implement reads 0 (10_state.md R22, 30_encoding.md
R84). -/

namespace Sys2Proof.Machine

/-- A read of the register at `off` answers a value with no bit outside `bits`. -/
def ReadsWithin (s : State) (off : BitVec 7) (bits : Word) : Prop :=
  ∀ d : Word, ∃ t, act (.op (readWord off d)) s = .next t ∧ t.rdata &&& ~~~bits = 0

/-- The read word of an aligned offset decodes by its offset. -/
theorem decode_readWord {off : BitVec 7} (h : off.toNat % 4 = 0) (d : Word) :
    decode (readWord off d) = decodeRead off d := by
  simp [readWord, decode, decodeHost, decodeAccess, h]

/-! ### Values within a mask -/

/-- A value below 2 ^ n has no bit outside the low n. -/
theorem and_not_lowMask {v : Word} {n : Nat} (h : v.toNat < 2 ^ n) :
    v &&& ~~~((BitVec.allOnes n).setWidth 32) = 0 := by
  apply BitVec.eq_of_getLsbD_eq
  intro i hi
  by_cases hn : i < n
  · simp [hn, hi]
  · have hv : v.getLsbD i = false :=
      Nat.testBit_lt_two_pow (h.trans_le (Nat.pow_le_pow_right (by decide) (by omega)))
    simp [hv]

/-- A field of n bits reads within the low n. -/
theorem setWidth_within {n : Nat} (v : BitVec n) :
    (v.setWidth 32 : Word) &&& ~~~((BitVec.allOnes n).setWidth 32) = 0 := by
  refine and_not_lowMask ?_
  rw [BitVec.toNat_setWidth]
  exact (Nat.mod_le _ _).trans_lt v.isLt

/-- CTRL reads as its two fields (R24). -/
theorem ctrlWord_within (c : Ctrl) : ctrlWord c &&& ~~~0x00000701 = 0 := by
  obtain ⟨en, mask⟩ := c
  revert en mask
  decide

/-- STATUS reads as R27's layout: bits 31:24, 15:12 and 7 are 0. -/
theorem statusWord_within (st : Status) : statusWord st &&& ~~~0x00FF0F7F = 0 := by
  have hmask : ~~~(0x00FF0F7F : Word) =
      BitVec.allOnes 8 ++ 0#8 ++ BitVec.allOnes 4 ++ 0#4 ++ 1#1 ++ 0#7 := by decide
  rw [hmask, statusWord, BitVec.and_append, BitVec.and_append, BitVec.and_append, BitVec.and_append,
    BitVec.and_append]
  simp

/-! ### The rows of the register map -/

/-- A register whose read has no other effect reads within `bits` if its value does. -/
theorem readsWithin_register {s : State} {off : BitVec 7} {bits v : Word} {i : Word → Instr}
    (hoff : off.toNat % 4 = 0) (hdec : ∀ d, decodeRead off d = .ok (i d))
    (hexec : ∀ d, exec (i d) s = readRegister v s) (hv : v &&& ~~~bits = 0) :
    ReadsWithin s off bits := fun d =>
  ⟨returnRead v s, by rw [act_op, runOp_ok ((decode_readWord hoff d).trans (hdec d)), hexec]; rfl,
    hv⟩

/-- A write-only register reads 0 (R103). -/
theorem readsWithin_writeOnly {s : State} {off : BitVec 7} {bits : Word}
    (hoff : off.toNat % 4 = 0) (hdec : ∀ d, decodeRead off d = .error .writeOnlyRead) :
    ReadsWithin s off bits := fun d =>
  ⟨returnRead 0 s, by rw [act_op, runOp_error ((decode_readWord hoff d).trans (hdec d))]; rfl,
    BitVec.zero_and⟩

/-- BUF_DATA reads a byte, or 0 where the read is refused (R105, R117). -/
theorem readsWithin_bufData {s : State} (hs : Inv s) : ReadsWithin s 0x24 0x000000FF := by
  intro d
  have hrun : act (.op (readWord 0x24 d)) s = execRdBufData s :=
    runOp_ok (i := .rdBufData d) (decode_readWord rfl d) s
  have hrefused : (refuseAccess false s).rdata &&& ~~~(0x000000FF : Word) = 0 := BitVec.zero_and
  rw [hrun, execRdBufData]
  split
  · exact ⟨_, rfl, hrefused⟩
  · unfold readBufData
    split
    · exact ⟨_, rfl, hrefused⟩
    · rename_i hne
      obtain ⟨⟨-, -, hptr, -⟩, -, -⟩ := hs
      have hlt : s.bufPtr.toNat < Config.fbCap :=
        lt_of_le_of_ne hptr fun he => hne (BitVec.eq_of_toNat_eq he)
      obtain ⟨b, n, eb, -⟩ := fbRead_total s hlt
      simp only [eb, bind, Except.bind]
      exact ⟨_, rfl, setWidth_within b⟩

/-- Every row of the register map (R22) reads within its bits column. -/
theorem readsWithin_of_mem_registerMap {s : State} (hs : Inv s) :
    ∀ r ∈ registerMap, ReadsWithin s r.offset r.bits := by
  have hcount : (BitVec.ofNat 32 (argCount s)).toNat < 2 ^ 17 := by
    obtain ⟨⟨-, harg, -⟩, -, -⟩ := hs
    rw [BitVec.toNat_ofNat]
    omega
  simp only [registerMap, List.cons_append, List.nil_append, List.forall_mem_cons]
  refine ⟨?id, ?ctrl, ?status, ?cmd, ?opcode, ?address, ?argCount, ?argData, ?bufPtr, ?bufData,
    ?bufLen, ?crc, ?crcData, ?timeoutPolls, ?idlePolls, ?frameLen, ?rxOpcode, ?rxAddr,
    ?statusIndex, by simp⟩
  case cmd | argData | crcData => exact readsWithin_writeOnly rfl fun _ => rfl
  case bufData => exact readsWithin_bufData hs
  case id => exact readsWithin_register rfl (fun _ => rfl) (fun _ => rfl) (by decide)
  case ctrl => exact readsWithin_register rfl (fun _ => rfl) (fun _ => rfl) (ctrlWord_within _)
  case status => exact readsWithin_register rfl (fun _ => rfl) (fun _ => rfl) (statusWord_within _)
  case argCount =>
    exact readsWithin_register rfl (fun _ => rfl) (fun _ => rfl) (and_not_lowMask (n := 17) hcount)
  case opcode | address | bufPtr | bufLen | crc | timeoutPolls | idlePolls | frameLen | rxOpcode
    | rxAddr | statusIndex =>
    exact readsWithin_register rfl (fun _ => rfl) (fun _ => rfl) (setWidth_within _)

/-- Settles O21, row by row of the register map. -/
theorem unimplementedBitsReadZero : Obligations.UnimplementedBitsReadZero := by
  unfold Obligations.UnimplementedBitsReadZero
  intro s r d hs hr
  exact readsWithin_of_mem_registerMap hs r hr d

end Sys2Proof.Machine
end

section
/-! PROOFS. Memory and the bus (20_memory.md): the step of an operation word, the register window, the
bus lanes, an FB index that does not exist, and the transmission of FB in order. -/

namespace Sys2Proof.Machine

/-! ### Operation words and the register window -/

/-- Settles O5: the schedule's first event is the operation word, and its step runs what it decodes
to. -/
theorem stepRunsTheDecodedInstruction : Obligations.StepRunsTheDecodedInstruction := by
  unfold Obligations.StepRunsTheDecodedInstruction
  intro s w i rest hin hdec
  rw [step_cons hin]
  exact runOp_ok hdec _

/-- BASE is a multiple of the window's size, so it leaves address bits 6:0 (R51). -/
theorem offsetOf_base_add (off : BitVec 7) : offsetOf (Config.base + off.toNat) = off := by
  apply BitVec.eq_of_toNat_eq
  rw [offsetOf, BitVec.toNat_ofNat, Config.base]
  exact (Nat.mul_add_mod _ _ _).trans (Nat.mod_eq_of_lt off.isLt)

/-- Settles O6: the access's word has the offset that stands above BASE. -/
theorem alignedAccessAtBaseIsTheOffsetsOperation :
    Obligations.AlignedAccessAtBaseIsTheOffsetsOperation := by
  unfold Obligations.AlignedAccessAtBaseIsTheOffsetsOperation
  intro s a off rest haddr hwidth hin
  have hword : wordOfAccess a = if a.write then writeWord off a.data else readWord off 0 := by
    rw [wordOfAccess, haddr, offsetOf_base_add]
  rw [step_cons hin, step_cons rfl, ← hword]
  exact if_neg (not_not.2 hwidth)

/-! ### The bus lanes -/

theorem busLanes_getElem? (v : Word) {k : Nat} (hk : k < 4) :
    (busLanes v)[k]? = some (v.extractLsb' (8 * k) 8) := by
  obtain rfl | rfl | rfl | rfl : k = 0 ∨ k = 1 ∨ k = 2 ∨ k = 3 := by omega
  all_goals rfl

/-- Settles O59: lane k is the value shifted right by 8k, in 8 bits. -/
theorem busLanesAreLittleEndian : Obligations.BusLanesAreLittleEndian := by
  unfold Obligations.BusLanesAreLittleEndian
  intro v k hk
  rw [busLanes_getElem? v hk, Option.map_some, BitVec.extractLsb'_toNat,
    Nat.shiftRight_eq_div_pow, Nat.pow_mul]

/-! ### Indices of FB that do not exist -/

theorem fbRead_missing {i : Nat} (s : State) (hi : Config.fbCap ≤ i) :
    fbRead i s = .error (.frameBufferIndex i) := if_neg hi.not_gt

theorem fbWrite_missing {i : Nat} (b : Byte) (s : State) (hi : Config.fbCap ≤ i) :
    fbWrite i b s = .error (.frameBufferIndex i) := if_neg hi.not_gt

theorem bufPtr_ne_fbCap {s : State} (h : Config.fbCap < s.bufPtr.toNat) :
    s.bufPtr ≠ BitVec.ofNat 17 Config.fbCap := fun he => h.ne' (congrArg BitVec.toNat he)

/-- Above 65539 a BUF_DATA read is not the refused one of R117: it forms BUF_PTR as an index. -/
theorem readBufData_missing {s : State} (h : Config.fbCap < s.bufPtr.toNat) :
    readBufData s = .error (.frameBufferIndex s.bufPtr.toNat) := by
  simp only [readBufData, if_neg (bufPtr_ne_fbCap h), fbRead_missing s h.le, bind, Except.bind]

/-- Above 65539 a BUF_DATA write is not the refused one of R130: it forms BUF_PTR as an index. -/
theorem writeBufData_missing {s : State} (data : Word) (h : Config.fbCap < s.bufPtr.toNat) :
    writeBufData data s = .error (.frameBufferIndex s.bufPtr.toNat) := by
  simp only [writeBufData, if_neg (bufPtr_ne_fbCap h), fbWrite_missing _ s h.le, bind,
    Except.bind]

theorem execRdBufData_idle {s : State} (h : s.status.busy = false) :
    execRdBufData s = toOutcome (readBufData s) := by simp [execRdBufData, h]

/-- Settles O60: FB's own accesses fault, and so do those of BUF_DATA, which index FB by BUF_PTR. -/
theorem missingFrameBufferIndexFaults : Obligations.MissingFrameBufferIndexFaults := by
  unfold Obligations.MissingFrameBufferIndexFaults
  intro s i b hi
  refine ⟨fbRead_missing s hi, fbWrite_missing b s hi, ?_⟩
  rintro hbusy rfl hlt d
  constructor
  · show execRdBufData s = _
    rw [execRdBufData_idle hbusy, readBufData_missing hlt, toOutcome]
  · show lockedWrite (writeBufData d) s = _
    rw [lockedWrite_idle hbusy, writeBufData_missing d hlt, toOutcome]

/-! ### The transmission of FB -/

/-- The bytes the transport has taken, oldest first: those on the wire, then those queued (R46). -/
def takenBytes (s : State) : List Byte := s.transport.wire ++ s.transport.txq

/-- The effect of a step in phase TX that does not end the TRANSACT: FB and tx_len are as before, and
the transport has taken nothing, or the byte at tx_idx (R64, R68). -/
inductive TxEffect (s t : State) : Prop
  /-- The transport has taken nothing. -/
  | nothingTaken (hfb : t.fb = s.fb) (hlen : t.txLen = s.txLen) (hidx : t.txIdx = s.txIdx)
      (hphase : t.phase = s.phase) (htaken : takenBytes t = takenBytes s)
  /-- The transport has taken the byte at tx_idx: the listed one, if FB lists one. -/
  | byteTaken (b : Byte) (hb : ∀ c, Memory.get s.fb s.txIdx = some c → b = c)
      (hfb : t.fb = s.fb) (hlen : t.txLen = s.txLen) (hidx : t.txIdx = s.txIdx + 1)
      (htaken : takenBytes t = takenBytes s ++ [b])

/-- While BUSY no register is stored, so a host access reports and does no more (R104). -/
theorem AccessEffect.txEffect {s t : State} (h : AccessEffect s t)
    (hbusy : s.status.busy = true) : TxEffect s t := by
  cases h with
  | reported v af rj _ _ ht => subst ht; exact .nothingTaken rfl rfl rfl rfl rfl
  | stored hidle => exact (Bool.false_ne_true (hidle.symm.trans hbusy)).elim

/-- DRAIN moves a byte within what the transport has taken (R171). -/
theorem txEffect_drain (s : State) : TxEffect s (drain s) := by
  unfold drain
  split
  · exact .nothingTaken rfl rfl rfl rfl rfl
  · rename_i b rest hq
    exact .nothingTaken rfl rfl rfl rfl (by simp [takenBytes, hq])

/-- A poll without progress counts, unless it times out and so ends the TRANSACT (R175). -/
theorem txEffect_idlePoll {s : State} (h : (idlePoll s).phase ≠ .idle) :
    TxEffect s (idlePoll s) := by
  unfold idlePoll at h ⊢
  split
  · rename_i hthr
    rw [if_pos hthr] at h
    exact absurd rfl h
  · exact .nothingTaken rfl rfl rfl rfl rfl

/-- TX_ACCEPT takes the byte at tx_idx, and after the last one RX begins (R174). -/
theorem txEffect_txAcceptStep {s t : State} (hs : Inv s) (hp : s.phase = .tx)
    (e : txAcceptStep s = .ok t) : TxEffect s t := by
  obtain ⟨⟨-, -, -, -, -, -, hlen⟩, -, htx, -⟩ := hs
  obtain ⟨hlt, -⟩ := htx hp
  obtain ⟨b, d, er, hb⟩ := fbRead_total (i := s.txIdx) s (by rw [Config.fbCap]; omega)
  have htaken : s.transport.wire ++ (s.transport.txq ++ [b]) = takenBytes s ++ [b] :=
    (List.append_assoc ..).symm
  simp only [txAcceptStep, hp, er, bind, Except.bind] at e
  cases e
  split <;> exact .byteTaken b (fun c hc => (hb c hc).1) rfl rfl rfl htaken

/-- A wire word is TX_ACCEPT or changes nothing (log 6). -/
theorem txEffect_transmitOpcode {b : Byte} {s t : State} (hs : Inv s) (hp : s.phase = .tx)
    (e : transmitOpcode b s = .ok t) : TxEffect s t := by
  rcases transmitOpcode_cases b s with ⟨-, -, e'⟩ | e'
  · exact txEffect_txAcceptStep hs hp (e'.symm.trans e)
  · cases e'.symm.trans e
    exact .nothingTaken rfl rfl rfl rfl rfl

/-- In phase TX a host access takes nothing: BUSY is 1, so no command is accepted (R104, R108). -/
theorem txEffect_host {e : Event} {s t : State} (he : e.isHost = true)
    (hbusy : s.status.busy = true) (h : act e s = .next t) : TxEffect s t := by
  rcases act_host_cases he h with ⟨-, hidle, -⟩ | ⟨heff, -⟩
  · exact (Bool.false_ne_true (hidle.symm.trans hbusy)).elim
  · exact heff.txEffect hbusy

/-- Every agent's step in phase TX but an I/O failure has a `TxEffect`, or ends the TRANSACT. -/
theorem act_txEffect {e : Event} {s t : State} (hs : Inv s) (hp : s.phase = .tx)
    (hagent : e.isAgent = true) (hio : ∀ a, e ≠ .ioFail a) (h : act e s = .next t)
    (hend : t.phase ≠ .idle) : TxEffect s t := by
  obtain ⟨hbusy, -⟩ := hs.busy_status (by simp [hp])
  cases e with
  | op w =>
    cases w with
    | host w => exact txEffect_host rfl hbusy h
    | wire b =>
      exact txEffect_transmitOpcode hs hp (toOutcome_next ((runOp_wire b s).symm.trans h))
  | access a => exact txEffect_host rfl hbusy h
  | arrive bs => cases h; exact .nothingTaken rfl rfl rfl rfl rfl
  | drain => cases h; exact txEffect_drain s
  | txAccept => exact txEffect_txAcceptStep hs hp (toOutcome_next h)
  | pollTick =>
    cases (pollTickStep_tx hp).symm.trans (toOutcome_next h)
    exact txEffect_idlePoll hend
  | ioFail after => exact absurd rfl (hio after)
  | reset => cases hagent

/-- Settles O41: the two kinds of `TxEffect` are the statement's two cases. -/
theorem transmittedBytesAreTheBuffersInOrder :
    Obligations.TransmittedBytesAreTheBuffersInOrder := by
  unfold Obligations.TransmittedBytesAreTheBuffersInOrder
  intro s t e hs hp hagent hio h hend
  cases act_txEffect hs hp hagent hio h hend with
  | nothingTaken hfb hlen hidx hphase htaken =>
    exact ⟨hfb, hlen, .inl ⟨hidx, hphase.trans hp, htaken⟩⟩
  | byteTaken b hb hfb hlen hidx htaken =>
    exact ⟨hfb, hlen, .inr ⟨hidx, b, hb, htaken⟩⟩

end Sys2Proof.Machine
end

section
/-! PROOFS. The decoder and the encoder are inverse to each other (30_encoding.md R70-R73, R79), and the
words that are no row of the table are rejected under their rules (R71, R82, R83, R100-R103). -/

namespace Sys2Proof.Machine

/-! ### Words built from fields -/

/-- A host word decodes by the fields it is built from. -/
theorem decode_host_mkHostWord (w : Bool) (off : BitVec 7) (data : Word) :
    decode (.host (mkHostWord w off data)) = decodeAccess w off data := by
  simp only [decode, decodeHost, fieldW_mkHostWord, fieldOff_mkHostWord, fieldData_mkHostWord]

theorem decodeAccess_misaligned {off : BitVec 7} (h : off.toNat % 4 ≠ 0) (w : Bool) (data : Word) :
    decodeAccess w off data = .error (.misaligned w) := if_pos h

theorem decodeAccess_aligned {off : BitVec 7} (h : off.toNat % 4 = 0) (w : Bool) (data : Word) :
    decodeAccess w off data = if w then decodeWrite off data else decodeRead off data :=
  if_neg (not_not.2 h)

/-- The write word of an aligned offset decodes by its offset. -/
theorem decode_writeWord {off : BitVec 7} (h : off.toNat % 4 = 0) (data : Word) :
    decode (writeWord off data) = decodeWrite off data := by
  rw [writeWord, decode_host_mkHostWord, decodeAccess_aligned h, if_pos rfl]

/-- A CMD write decodes by its code (R73). -/
theorem decode_commandWord (code : BitVec 8) (ignored : BitVec 24) :
    decode (commandWord code ignored) = decodeCommand (ignored ++ code) :=
  decode_writeWord (off := 0x0C) rfl _

/-! ### Decoding an encoded instruction -/

/-- Settles O1, row by row: the fields of the encoded word select the row and give back its operand. -/
theorem decodeOfEncodeIsTheInstruction : Obligations.DecodeOfEncodeIsTheInstruction := by
  unfold Obligations.DecodeOfEncodeIsTheInstruction
  intro i
  cases i with
  | rdId data | rdCtrl data | rdStatus data | rdOpcode data | rdAddress data | rdArgCount data
  | rdBufPtr data | rdBufData data | rdBufLen data | rdCrc data | rdTimeoutPolls data
  | rdIdlePolls data | rdFrameLen data | rdRxOpcode data | rdRxAddr data | rdStatusIndex data =>
    exact decode_readWord rfl data
  | wrCtrl data | wrOpcode data | wrAddress data | wrArgData data | wrBufPtr data | wrBufData data
  | wrBufLen data | wrCrcData data | wrTimeoutPolls data | wrStatusIndex data =>
    exact decode_writeWord rfl data
  | crcInit ignored | crcBuf ignored | argClear ignored | encode ignored | decode ignored
  | transact ignored | flush ignored =>
    rw [encode, decode_commandWord, decodeCommand, fieldCode_append, fieldIgnored_append]
    rfl
  | wireRead | wireWrite => rfl

/-- A table row's word that is an instruction's code decodes to it. -/
theorem decodeTableWord_of_eq_encode {nbits w : Nat} {i : Instr} (h : tableWord nbits w = encode i) :
    decodeTableWord nbits w = some i := by
  rw [decodeTableWord, h, decodeOfEncodeIsTheInstruction i]
  rfl

/-- Settles O4: each listed word is the code of its instruction. -/
theorem listedWordsDecodeToTheirInstructions : Obligations.ListedWordsDecodeToTheirInstructions := by
  unfold Obligations.ListedWordsDecodeToTheirInstructions
  refine ⟨?_, ?_, ?_, ?_, ?_, ?_, ?_, ?_⟩ <;> exact decodeTableWord_of_eq_encode rfl

/-! ### Encoding a decoded word -/

theorem readWord_congr {off off' : BitVec 7} (h : off.toNat = off'.toNat) (data : Word) :
    readWord off' data = readWord off data := by rw [BitVec.eq_of_toNat_eq h]

theorem writeWord_congr {off off' : BitVec 7} (h : off.toNat = off'.toNat) (data : Word) :
    writeWord off' data = writeWord off data := by rw [BitVec.eq_of_toNat_eq h]

/-- A CMD write is the command word of its code and its ignored bits (R72). -/
theorem commandWord_fieldIgnored {data : Word} {code : BitVec 8}
    (h : (fieldCode data).toNat = code.toNat) :
    commandWord code (fieldIgnored data) = writeWord 0x0C data := by
  rw [← BitVec.eq_of_toNat_eq h, commandWord, fieldIgnored_code]

theorem encode_of_decodeRead {off : BitVec 7} {data : Word} {i : Instr}
    (h : decodeRead off data = .ok i) : encode i = readWord off data := by
  unfold decodeRead at h
  split at h <;> cases h
  all_goals exact readWord_congr ‹_› data

theorem encode_of_decodeCommand {data : Word} {i : Instr} (h : decodeCommand data = .ok i) :
    encode i = writeWord 0x0C data := by
  unfold decodeCommand at h
  split at h <;> cases h
  all_goals exact commandWord_fieldIgnored ‹_›

theorem encode_of_decodeWrite {off : BitVec 7} {data : Word} {i : Instr}
    (h : decodeWrite off data = .ok i) : encode i = writeWord off data := by
  unfold decodeWrite at h
  split at h
  case h_4 hoff => exact (encode_of_decodeCommand h).trans (writeWord_congr hoff data)
  all_goals cases h
  all_goals exact writeWord_congr ‹_› data

theorem encode_of_decodeAccess {w : Bool} {off : BitVec 7} {data : Word} {i : Instr}
    (h : decodeAccess w off data = .ok i) : encode i = .host (mkHostWord w off data) := by
  by_cases hoff : off.toNat % 4 = 0
  · rw [decodeAccess_aligned hoff] at h
    cases w with
    | false => exact encode_of_decodeRead h
    | true => exact encode_of_decodeWrite h
  · rw [decodeAccess_misaligned hoff] at h
    cases h

theorem encode_of_decodeWire {b : Byte} {i : Instr} (h : decodeWire b = .ok i) :
    encode i = .wire b := by
  unfold decodeWire at h
  split at h
  · cases h
    exact congrArg OpWord.wire (Eq.symm ‹_›)
  · split at h
    · cases h
      exact congrArg OpWord.wire (Eq.symm ‹_›)
    · cases h

/-- Settles O2: a host word is its fields, which the encoder puts back. -/
theorem encodeOfDecodeIsTheWord : Obligations.EncodeOfDecodeIsTheWord := by
  unfold Obligations.EncodeOfDecodeIsTheWord
  intro w i h
  cases w with
  | host w => rw [encode_of_decodeAccess h, mkHostWord_fields]
  | wire b => exact encode_of_decodeWire h

/-- The words that decode to an instruction are its code alone. -/
theorem decode_eq_ok_iff {w : OpWord} {i : Instr} : decode w = .ok i ↔ w = encode i := by
  constructor
  · intro h
    exact (encodeOfDecodeIsTheWord w i h).symm
  · rintro rfl
    exact decodeOfEncodeIsTheInstruction i

/-! ### The words that are no row of the table -/

/-- The offsets above STATUS_INDEX are reserved (R83). -/
theorem decodeRead_reserved {off : BitVec 7} (h : 0x4C ≤ off.toNat) (data : Word) :
    decodeRead off data = .error (.reservedOffset false) := by
  unfold decodeRead
  split
  case h_20 => rfl
  all_goals omega

theorem decodeWrite_reserved {off : BitVec 7} (h : 0x4C ≤ off.toNat) (data : Word) :
    decodeWrite off data = .error (.reservedOffset true) := by
  unfold decodeWrite
  split
  case h_20 => rfl
  all_goals omega

theorem decodeAccess_reserved {off : BitVec 7} (halign : off.toNat % 4 = 0) (h : 0x4C ≤ off.toNat)
    (w : Bool) (data : Word) : decodeAccess w off data = .error (.reservedOffset w) := by
  rw [decodeAccess_aligned halign]
  cases w with
  | false => exact decodeRead_reserved h data
  | true => exact decodeWrite_reserved h data

/-- The read-only registers (R102). -/
theorem decodeAccess_readOnly {off : BitVec 7}
    (h : off ∈ [0x00, 0x08, 0x18, 0x2C, 0x38, 0x3C, 0x40, 0x44]) (data : Word) :
    decodeAccess true off data = .error .readOnlyWrite := by
  simp only [List.mem_cons, List.not_mem_nil, or_false] at h
  rcases h with rfl | rfl | rfl | rfl | rfl | rfl | rfl | rfl <;> rfl

/-- The write-only registers: CMD, ARG_DATA and CRC_DATA (R103). -/
theorem decodeAccess_writeOnly {off : BitVec 7} (h : off ∈ [0x0C, 0x1C, 0x30]) (data : Word) :
    decodeAccess false off data = .error .writeOnlyRead := by
  simp only [List.mem_cons, List.not_mem_nil, or_false] at h
  rcases h with rfl | rfl | rfl <;> rfl

/-- The code is DATA modulo 256 (R72). -/
theorem fieldCode_toNat (data : Word) : (fieldCode data).toNat = data.toNat % 256 := by
  rw [fieldCode, BitVec.extractLsb'_toNat, Nat.shiftRight_zero]

/-- The codes 0x00 and 0x08 to 0xFF are illegal (R82). -/
theorem decodeCommand_illegal {data : Word} (h : data.toNat % 256 = 0 ∨ 8 ≤ data.toNat % 256) :
    decodeCommand data = .error .illegalCommand := by
  rw [← fieldCode_toNat] at h
  unfold decodeCommand
  split
  case h_8 => rfl
  all_goals omega

/-- Settles O3, a rule for each clause. -/
theorem wordsThatAreNoRowAreRejectedByTheirRule :
    Obligations.WordsThatAreNoRowAreRejectedByTheirRule := by
  unfold Obligations.WordsThatAreNoRowAreRejectedByTheirRule
  intro w off data
  simp only [decode_host_mkHostWord]
  exact ⟨fun h => decodeAccess_misaligned h w data,
    fun halign h => decodeAccess_reserved halign h w data,
    fun h => decodeAccess_readOnly h data,
    fun h => decodeAccess_writeOnly h data,
    fun h => decodeCommand_illegal h⟩

end Sys2Proof.Machine
end

section
/-! PROOFS. What the encoding's corner cases do in the machine: an illegal command code (R82), and the
wire opcodes as ENCODE's operand and as frame byte 4 of a request (30_encoding.md R79). -/

namespace Sys2Proof.Machine

/-! ### Illegal command codes -/

/-- A CMD write of an illegal code runs as a command that ends in ILLEGAL_CMD (R109). -/
theorem act_illegalCommand {data : Word} (h : data.toNat % 256 = 0 ∨ 8 ≤ data.toNat % 256)
    (s : State) :
    act (.op (writeWord 0x0C data)) s =
      runCommand (fun s => .ok (completeErr .illegalCmd s)) s :=
  runOp_error ((decode_writeWord (off := 0x0C) rfl data).trans (decodeCommand_illegal h)) s

/-- Settles O13: accepted, and ended by its error, while BUSY = 0; rejected as any command while
BUSY. -/
theorem illegalCommandEndsInIllegalCmd : Obligations.IllegalCommandEndsInIllegalCmd := by
  unfold Obligations.IllegalCommandEndsInIllegalCmd
  intro s data hcode
  rw [act_illegalCommand hcode]
  constructor
  · intro hidle
    rw [runCommand_idle hidle]
    rfl
  · intro hbusy
    exact runCommand_busy hbusy

/-! ### The wire opcodes in ENCODE -/

/-- The wire opcodes are the bytes of the two wire instructions (R79). -/
theorem decode_wire_ok_iff {b : Byte} :
    (decode (.wire b) = .ok .wireRead ∨ decode (.wire b) = .ok .wireWrite) ↔
      b = Config.opRead ∨ b = Config.opWrite := by
  simp only [decode_eq_ok_iff, encode, OpWord.wire.injEq]

/-- ENCODE of an OPCODE that is no wire opcode ends in BAD_OPCODE (R153). -/
theorem encodeBody_badOpcode {s : State}
    (h : ¬ (s.opcode = Config.opRead ∨ s.opcode = Config.opWrite)) :
    encodeBody s = .ok (completeErr .badOpcode { s with frameLen := 0 }) :=
  if_pos (not_or.1 h)

/-- ENCODE of a wire opcode emits the request (R153). -/
theorem encodeBody_wireOpcode {s : State}
    (h : s.opcode = Config.opRead ∨ s.opcode = Config.opWrite) :
    encodeBody s = emitRequest { s with frameLen := 0 } :=
  if_neg fun hbad => (not_or.2 hbad) h

/-- Settles O37: the check of OPCODE decides, and the opcode is byte 4 of the request. -/
theorem encodeEmitsOnlyTheWireOpcodes : Obligations.EncodeEmitsOnlyTheWireOpcodes := by
  unfold Obligations.EncodeEmitsOnlyTheWireOpcodes
  intro s ig hidle harg
  have hexec : exec (.encode ig) s = toOutcome (encodeBody (accept s)) := runCommand_idle hidle
  rw [decode_wire_ok_iff, hexec]
  by_cases hop : s.opcode = Config.opRead ∨ s.opcode = Config.opWrite
  · obtain ⟨m, hemit, hbytes, -, -⟩ := emitRequest_total { accept s with frameLen := 0 } harg
    rw [encodeBody_wireOpcode (s := accept s) hop, hemit]
    exact ⟨_, rfl, iff_of_true rfl hop, fun _ => hbytes 4 (by simp)⟩
  · rw [encodeBody_badOpcode (s := accept s) hop]
    exact ⟨_, rfl, iff_of_false nofun hop, nofun⟩

/-! ### The wire opcodes as steps -/

theorem byteShown_listed {i : Nat} {s : State} {b : Byte} (h : Memory.get s.fb i = some b) :
    byteShown i s = b := by rw [byteShown, h, Option.getD_some]

/-- What TX_ACCEPT does with a byte, before the check for the last one (R174). -/
def queueByte (b : Byte) (s : State) : State :=
  { s with
    transport := { s.transport with txq := s.transport.txq ++ [b] }
    txIdx := s.txIdx + 1, idlePolls := 0 }

/-- TX_ACCEPT of a listed byte queues it, and after the last byte RX begins (R174). -/
theorem txAcceptStep_listed {s : State} {b : Byte} (hp : s.phase = .tx)
    (hi : s.txIdx < Config.fbCap) (hb : Memory.get s.fb s.txIdx = some b) :
    txAcceptStep s =
      .ok (if s.txLen = s.txIdx + 1 then enterRx (queueByte b s) else queueByte b s) := by
  simp only [txAcceptStep, hp, fbRead_listed hi hb, bind, Except.bind, queueByte,
    eq_comm (a := s.txLen)]

/-- A wire opcode's instruction is its byte's transmission (log 6). -/
theorem exec_wireOpcode {i : Instr} {b : Byte}
    (h : (i, b) ∈ [(Instr.wireRead, (0x01 : Byte)), (Instr.wireWrite, 0x02)]) (s : State) :
    exec i s = toOutcome (transmitOpcode b s) := by
  simp only [List.mem_cons, List.not_mem_nil, or_false, Prod.mk.injEq] at h
  rcases h with ⟨rfl, rfl⟩ | ⟨rfl, rfl⟩ <;> rfl

/-- The transmission of frame byte 4 is not enabled outside TX, at another byte, or where FB lists
another value. -/
theorem not_sendsOpcode {b : Byte} {s : State}
    (h : s.phase ≠ .tx ∨ s.txIdx ≠ 4 ∨ ∃ c, c ≠ b ∧ Memory.get s.fb 4 = some c) :
    ¬ sendsOpcode b s := by
  rintro ⟨hphase, hidx, hshown⟩
  rcases h with hne | hne | ⟨c, hne, hc⟩
  · exact hne hphase
  · exact hne hidx
  · exact hne ((byteShown_listed hc).symm.trans hshown)

/-- Settles O38: a wire word is TX_ACCEPT where its transmission is enabled, and no step elsewhere. -/
theorem wireOpcodesTransmitRequestFrameByteFour :
    Obligations.WireOpcodesTransmitRequestFrameByteFour := by
  unfold Obligations.WireOpcodesTransmitRequestFrameByteFour
  intro s i b hib
  rw [exec_wireOpcode hib]
  refine ⟨fun hp hidx hb => ?_, fun h => ?_, fun w => ?_⟩
  · have haccept := txAcceptStep_listed hp (by rw [hidx]; decide) (hidx ▸ hb)
    rw [transmitOpcode_enabled ⟨hp, hidx, byteShown_listed hb⟩, haccept]
    simp only [toOutcome, enterRx, queueByte, hidx]
  · rw [transmitOpcode_disabled (not_sendsOpcode h), toOutcome]
  · rw [act_op, runOp_wire, act_txAccept]
    rcases transmitOpcode_cases w s with ⟨-, -, haccept⟩ | hnone
    · exact .inl (by rw [haccept])
    · exact .inr (by rw [hnone, toOutcome])

end Sys2Proof.Machine
end

section
/-! PROOFS. The host interface (40_host_interface.md R100-R133): the accesses that are refused, what
a host access can do while BUSY, the values that register reads return, and what register writes
store. -/

namespace Sys2Proof.Machine

/-! ### Refused accesses -/

/-- What a refused access changes (R100). -/
theorem refuseAccess_eq (w : Bool) (s : State) :
    refuseAccess w s =
      { s with
        status := { s.status with accessFault := true }
        rdata := if w then s.rdata else 0 } := by
  cases w <;> rfl

/-- Address bits 1:0 are those of the offset, so both are aligned or neither is (R51). -/
theorem offsetOf_mod_four (addr : Nat) : (offsetOf addr).toNat % 4 = addr % 4 := by
  rw [offsetOf, BitVec.toNat_ofNat]
  omega

theorem decode_wordOfAccess_misaligned {a : HostAccess} (h : a.addr % 4 ≠ 0) :
    decode (wordOfAccess a) = .error (.misaligned a.write) := by
  have hoff : (offsetOf a.addr).toNat % 4 ≠ 0 := offsetOf_mod_four a.addr ▸ h
  unfold wordOfAccess
  split
  · rename_i hw
    rw [writeWord, decode_host_mkHostWord, decodeAccess_misaligned hoff, hw]
  · rename_i hr
    rw [readWord, decode_host_mkHostWord, decodeAccess_misaligned hoff,
      Bool.eq_false_of_not_eq_true hr]

/-- Settles O9: the width is checked first, and a misaligned access decodes to its rejection. -/
theorem narrowOrMisalignedAccessIsRefused : Obligations.NarrowOrMisalignedAccessIsRefused := by
  unfold Obligations.NarrowOrMisalignedAccessIsRefused
  intro s a h
  rw [act_access, ← refuseAccess_eq, runAccess]
  split
  · rfl
  · rename_i hwidth
    exact runOp_error (decode_wordOfAccess_misaligned (h.resolve_left hwidth)) s

/-- A host operation whose fields are rejected has its rejection's effect. -/
theorem act_host_rejected {w : Bool} {off : BitVec 7} {data : Word} {r : Reject}
    (h : decodeAccess w off data = .error r) (s : State) :
    act (.op (.host (mkHostWord w off data))) s = rejectOp r s :=
  runOp_error ((decode_host_mkHostWord w off data).trans h) s

/-- Settles O10: both directions decode to the rejection of a reserved offset. -/
theorem reservedOffsetIsRefused : Obligations.ReservedOffsetIsRefused := by
  unfold Obligations.ReservedOffsetIsRefused
  intro s off data halign hoff
  exact ⟨act_host_rejected (decodeAccess_reserved halign hoff false data) s,
    act_host_rejected (decodeAccess_reserved halign hoff true data) s⟩

/-- Settles O11: the write is rejected whatever BUSY is. -/
theorem writeToReadOnlyRegisterIsRefused : Obligations.WriteToReadOnlyRegisterIsRefused := by
  unfold Obligations.WriteToReadOnlyRegisterIsRefused
  intro s off data hoff
  exact act_host_rejected (decodeAccess_readOnly hoff data) s

/-- Settles O12: the read returns 0 whatever BUSY is. -/
theorem readOfWriteOnlyRegisterReturnsZero : Obligations.ReadOfWriteOnlyRegisterReturnsZero := by
  unfold Obligations.ReadOfWriteOnlyRegisterReturnsZero
  intro s off data hoff
  exact act_host_rejected (decodeAccess_writeOnly hoff data) s

/-! ### Host accesses while BUSY -/

/-- Settles O14: every value of DATA decodes to some command, and no command runs while BUSY. -/
theorem commandWhileBusyIsRejected : Obligations.CommandWhileBusyIsRejected := by
  unfold Obligations.CommandWhileBusyIsRejected
  intro s data hbusy
  obtain ⟨body, hbody⟩ := exists_command_decodeCommand data
  have hdec : decode (writeWord 0x0C data) = decodeCommand data := decode_writeWord rfl data
  rw [← hdec] at hbody
  rw [act_op, hbody.runOp, runCommand_busy hbusy, raiseRejected]

theorem execRdBufData_busy {s : State} (h : s.status.busy = true) :
    execRdBufData s = .next (refuseAccess false s) := if_pos h

/-- While BUSY no register access forms an index of FB, so each of them answers (R104, R105). -/
theorem exec_answers_of_busy {i : Instr} {s : State} (hb : s.status.busy = true)
    (hi : accessesRegister (.ok i) = true) : ∃ t, exec i s = .next t := by
  cases i with
  | rdId | rdCtrl | rdStatus | rdOpcode | rdAddress | rdArgCount | rdBufPtr | rdBufLen | rdCrc
  | rdTimeoutPolls | rdIdlePolls | rdFrameLen | rdRxOpcode | rdRxAddr | rdStatusIndex =>
    exact ⟨_, rfl⟩
  | rdBufData => exact ⟨_, execRdBufData_busy hb⟩
  | wrCtrl | wrOpcode | wrAddress | wrArgData | wrBufPtr | wrBufData | wrBufLen | wrCrcData
  | wrTimeoutPolls | wrStatusIndex =>
    simp only [exec, execWrCtrl, execWrOpcode, execWrAddress, execWrArgData, execWrBufPtr,
      execWrBufData, execWrBufLen, execWrCrcData, execWrTimeoutPolls, execWrStatusIndex]
    exact ⟨_, lockedWrite_busy hb⟩
  | crcInit | crcBuf | argClear | encode | decode | transact | flush | wireRead | wireWrite =>
    cases hi

theorem rejectOp_answers {r : Reject} (hr : accessesRegister (.error r) = true) (s : State) :
    ∃ t, rejectOp r s = .next t := by
  cases r with
  | misaligned | reservedOffset | readOnlyWrite | writeOnlyRead => exact ⟨_, rfl⟩
  | illegalCommand | wireOpcode => cases hr

theorem runOp_host_answers_of_busy (w : HostWord) {s : State} (hb : s.status.busy = true) :
    ∃ t, runOp (.host w) s = .next t := by
  cases hcmd : fieldW w && fieldOff w == 0x0C with
  | true =>
    obtain ⟨body, hbody⟩ := exists_command_decodeCommand (fieldData w)
    rw [← decodeHost_cmdWrite hcmd] at hbody
    rw [Command.runOp (w := .host w) hbody, runCommand_busy hb]
    exact ⟨_, rfl⟩
  | false =>
    have hreg : accessesRegister (decode (.host w)) = true := accessesRegister_decodeHost hcmd
    cases hd : decode (.host w) with
    | ok i =>
      rw [runOp_ok hd]
      exact exec_answers_of_busy hb (hd ▸ hreg)
    | error r =>
      rw [runOp_error hd]
      exact rejectOp_answers (hd ▸ hreg) s

theorem act_host_answers_of_busy {e : Event} {s : State} (he : e.isHost = true)
    (hb : s.status.busy = true) : ∃ t, act e s = .next t := by
  rcases act_isHost he s with ⟨w, -, hact⟩ | ⟨-, write, hact⟩
  · rw [hact]
    exact runOp_host_answers_of_busy w hb
  · exact ⟨_, hact⟩

/-- While BUSY no register takes a value. -/
theorem AccessEffect.reported_of_busy {s t : State} (h : AccessEffect s t)
    (hb : s.status.busy = true) :
    ∃ v af rj, t = { s with
      rdata := v, status := { s.status with accessFault := af, rejected := rj } } := by
  cases h with
  | reported v af rj _ _ ht => exact ⟨v, af, rj, ht⟩
  | stored hidle => simp [hb] at hidle

/-- Settles O16: every host access answers while BUSY, is no accepted command, and only reports. -/
theorem hostCannotDisturbARunningTransact : Obligations.HostCannotDisturbARunningTransact := by
  unfold Obligations.HostCannotDisturbARunningTransact
  intro s e he hbusy
  obtain ⟨t, ht⟩ := act_host_answers_of_busy he hbusy
  rcases act_host_cases he ht with ⟨-, hidle, -⟩ | ⟨heffect, -⟩
  · simp [hbusy] at hidle
  · obtain ⟨v, af, rj, rfl⟩ := heffect.reported_of_busy hbusy
    exact ⟨v, af, rj, ht⟩

/-! ### ID, CTRL and STATUS -/

/-- Two fields side by side are the upper one shifted past the lower one. -/
theorem setWidth_append_eq_or {n m : Nat} (x : BitVec n) (y : BitVec m) (w : Nat) :
    (x ++ y).setWidth w = x.setWidth w <<< m ||| y.setWidth w := by
  ext i hi
  by_cases h : i < m
  · simp [BitVec.getElem_setWidth, BitVec.getLsbD_append, h]
  · simp [BitVec.getElem_setWidth, BitVec.getLsbD_append, h, BitVec.getLsbD_of_ge y i (by omega)]

/-- CTRL's two fields at their bits (R24). -/
theorem ctrlWord_eq_or (c : Ctrl) :
    ctrlWord c = c.ackMask.setWidth 32 <<< 8 ||| (BitVec.ofBool c.statusEn).setWidth 32 := by
  simp only [ctrlWord, setWidth_append_eq_or, BitVec.shiftLeft_or_distrib, ← BitVec.shiftLeft_add]
  simp

/-- STATUS's fields at their bits (R27). -/
theorem statusWord_eq_or (st : Status) :
    statusWord st =
      st.devCode.setWidth 32 <<< 16 ||| (errCodeBits st.errCode).setWidth 32 <<< 8 |||
        (BitVec.ofBool st.rejected).setWidth 32 <<< 6 |||
        (BitVec.ofBool st.accessFault).setWidth 32 <<< 5 |||
        (BitVec.ofBool st.fields).setWidth 32 <<< 4 |||
        (BitVec.ofBool st.valid).setWidth 32 <<< 3 |||
        (BitVec.ofBool st.err).setWidth 32 <<< 2 |||
        (BitVec.ofBool st.done).setWidth 32 <<< 1 |||
        (BitVec.ofBool st.busy).setWidth 32 := by
  rw [← BitVec.setWidth_eq (statusWord st), statusWord, statusFlagBits]
  simp only [setWidth_append_eq_or, BitVec.shiftLeft_or_distrib, ← BitVec.shiftLeft_add]
  simp [BitVec.or_assoc]

/-- The codes of R200's table. -/
theorem errCodeBits_eq_of_mem :
    ∀ p ∈ ([(.noError, 0x0), (.invalidHeader, 0x1), (.checksumMismatch, 0x2), (.truncated, 0x3),
      (.lengthInvalid, 0x4), (.timeout, 0x5), (.ioFailure, 0x6), (.deviceError, 0x7),
      (.malformed, 0x8), (.badOpcode, 0x9), (.illegalCmd, 0xA)] : List (ErrCode × BitVec 4)),
      errCodeBits p.1 = p.2 := by
  decide

/-- STATUS during a TRANSACT: acceptance has cleared it, and only the two indicators can be set
since (R106, R112). -/
def runningStatus (accessFault rejected : Bool) : Status where
  busy := true
  done := false
  err := false
  valid := false
  fields := false
  accessFault := accessFault
  rejected := rejected
  errCode := .noError
  devCode := 0

theorem Inv.status_eq_runningStatus {s : State} (hs : Inv s) (hb : s.status.busy = true) :
    s.status = runningStatus s.status.accessFault s.status.rejected := by
  obtain ⟨-, ⟨-, hdone, herr, hvalid, -, hclear⟩, -⟩ := hs
  have hnotDone := hdone hb
  obtain ⟨hcode, hdev, hfields⟩ := hclear hb
  have hnotErr : s.status.err = false := by simpa [hnotDone] using herr
  have hnotValid : s.status.valid = false := by simpa [hnotDone] using hvalid
  rw [runningStatus, ← hcode, ← hdev, Status.mk.injEq]
  exact ⟨hb, hnotDone, hnotErr, hnotValid, hfields, rfl, rfl, rfl, rfl⟩

theorem statusWord_runningStatus (accessFault rejected : Bool) :
    statusWord (runningStatus accessFault rejected) ∈ [0x01, 0x21, 0x41, 0x61] := by
  revert accessFault rejected
  decide

/-- Settles O17: the two registers' layouts, R200's codes in bits 11:8, and STATUS under the
invariant while BUSY. -/
theorem readsOfIdCtrlAndStatus : Obligations.ReadsOfIdCtrlAndStatus := by
  unfold Obligations.ReadsOfIdCtrlAndStatus
  refine ⟨fun s d => rfl, fun s d => ?_, fun s d => ?_, fun s d p hp hcode => ?_,
    fun s d hs hbusy => ?_⟩
  · rw [← ctrlWord_eq_or]
    rfl
  · rw [← statusWord_eq_or]
    rfl
  · refine ⟨_, rfl, (statusWord_errCode s.status).trans ?_⟩
    rw [hcode, errCodeBits_eq_of_mem p hp]
  · refine ⟨_, rfl, ?_⟩
    rw [returnRead_rdata, hs.status_eq_runningStatus hbusy]
    exact statusWord_runningStatus _ _

/-! ### Reads of the other registers -/

/-- ARG_COUNT fits the 32 bits it is read as (R115). -/
theorem Inv.argCount_toNat {s : State} (hs : Inv s) :
    (BitVec.ofNat 32 s.arg.length).toNat = s.arg.length ∧ s.arg.length ≤ 65530 := by
  obtain ⟨⟨-, harg, -⟩, -, -⟩ := hs
  exact ⟨Nat.mod_eq_of_lt (harg.trans_lt (by decide)), harg⟩

/-- Settles O18: each read is `readRegister` of its register, and the invariant bounds ARG_COUNT. -/
theorem readsOfTheRequestAndBufferRegisters : Obligations.ReadsOfTheRequestAndBufferRegisters := by
  unfold Obligations.ReadsOfTheRequestAndBufferRegisters
  exact fun s d => ⟨rfl, rfl, rfl, Inv.argCount_toNat, rfl, rfl⟩

/-- Settles O19: each read is `readRegister` of its register. -/
theorem readsOfTheChecksumPollAndResponseRegisters :
    Obligations.ReadsOfTheChecksumPollAndResponseRegisters := by
  unfold Obligations.ReadsOfTheChecksumPollAndResponseRegisters
  exact fun s d => ⟨rfl, rfl, rfl, rfl, rfl, rfl, rfl⟩

/-! ### BUF_DATA -/

theorem bufPtr_eq_fbCap_iff {p : BitVec 17} :
    p = BitVec.ofNat 17 Config.fbCap ↔ p.toNat = 65539 := BitVec.toNat_inj.symm

theorem readBufData_atEnd {s : State} (h : s.bufPtr.toNat = 65539) :
    readBufData s = .ok (refuseAccess false s) := if_pos (bufPtr_eq_fbCap_iff.2 h)

/-- Below FB's end the read answers the byte at BUF_PTR, a free draw if none was written (R117). -/
theorem readBufData_inRange {s : State} (h : s.bufPtr.toNat < 65539) :
    ∃ (v : Byte) (n : Nat), readBufData s =
        .ok { s with rdata := v.setWidth 32, bufPtr := s.bufPtr + 1, draws := n } ∧
      ∀ b, Memory.get s.fb s.bufPtr.toNat = some b → v = b ∧ n = s.draws := by
  obtain ⟨v, n, hread, hlisted⟩ := fbRead_total s h
  refine ⟨v, n, ?_, hlisted⟩
  rw [readBufData, if_neg (bufPtr_eq_fbCap_iff.not.2 h.ne), hread]
  rfl

/-- The read is refused by the lock or at FB's end (R105, R117). -/
theorem execRdBufData_refused {s : State} (h : s.status.busy = true ∨ s.bufPtr.toNat = 65539) :
    execRdBufData s = .next (refuseAccess false s) := by
  cases hbusy : s.status.busy with
  | true => exact execRdBufData_busy hbusy
  | false =>
    have hend : s.bufPtr.toNat = 65539 := by simpa [hbusy] using h
    rw [execRdBufData_idle hbusy, readBufData_atEnd hend, toOutcome]

/-- Settles O20: either refusal is one equation, and below FB's end the read is FB's own. -/
theorem bufDataReadReturnsTheByteAndAdvances :
    Obligations.BufDataReadReturnsTheByteAndAdvances := by
  unfold Obligations.BufDataReadReturnsTheByteAndAdvances
  intro s d
  have hexec : exec (.rdBufData d) s = execRdBufData s := rfl
  rw [hexec]
  refine ⟨execRdBufData_refused, fun hidle hlt => ?_⟩
  obtain ⟨v, n, hread, hlisted⟩ := readBufData_inRange hlt
  exact ⟨v, n, by rw [execRdBufData_idle hidle, hread, toOutcome], hlisted⟩

theorem writeBufData_atEnd {s : State} (data : Word) (h : s.bufPtr.toNat = 65539) :
    writeBufData data s = .ok (raiseAccessFault s) := if_pos (bufPtr_eq_fbCap_iff.2 h)

/-- Below FB's end the write lists its byte at BUF_PTR (R130). -/
theorem writeBufData_inRange {s : State} (data : Word) (h : s.bufPtr.toNat < 65539) :
    writeBufData data s = .ok
      { s with
        fb := Memory.set s.fb s.bufPtr.toNat (data8 data), bufPtr := s.bufPtr + 1 } := by
  rw [writeBufData, if_neg (bufPtr_eq_fbCap_iff.not.2 h.ne), fbWrite_total _ s h]
  rfl

/-! ### Register writes -/

theorem data8_eq_setWidth (data : Word) : data8 data = data.setWidth 8 :=
  (BitVec.setWidth_eq_extractLsb' (by decide)).symm

theorem data16_eq_setWidth (data : Word) : data16 data = data.setWidth 16 :=
  (BitVec.setWidth_eq_extractLsb' (by decide)).symm

theorem data17_toNat (data : Word) : (data17 data).toNat = data.toNat % 2 ^ 17 := by
  rw [data17, BitVec.extractLsb'_toNat, Nat.shiftRight_zero]

theorem clampToFb_toNat (v : BitVec 17) : (clampToFb v).toNat = min v.toNat 65539 := by
  unfold clampToFb
  split
  · rename_i h
    exact (min_eq_left h).symm
  · rename_i h
    exact (min_eq_right (not_le.1 h).le).symm

/-- A register write whose body cannot be refused stores while BUSY = 0. -/
theorem lockedWrite_stores {f : State → State} {s : State} (h : s.status.busy = false) :
    lockedWrite (fun s => .ok (f s)) s = .next (f s) := lockedWrite_idle h

/-- Settles O25: refused at FB's end, else FB's law of reading after writing. -/
theorem bufDataWriteStoresOneByteAndAdvances :
    Obligations.BufDataWriteStoresOneByteAndAdvances := by
  unfold Obligations.BufDataWriteStoresOneByteAndAdvances
  intro s data hidle
  have hexec : exec (.wrBufData data) s = toOutcome (writeBufData data s) := lockedWrite_idle hidle
  rw [hexec, ← data8_eq_setWidth]
  constructor
  · intro hend
    rw [writeBufData_atEnd data hend, toOutcome, raiseAccessFault]
  · intro hlt
    rw [writeBufData_inRange data hlt]
    exact ⟨_, rfl, Memory.get_set_same _ _ _, fun i hi => Memory.get_set_other _ _ i _ hi⟩

/-- Settles O22: the fields are DATA's bits 0 and 10:8. -/
theorem ctrlWriteStoresItsTwoFields : Obligations.CtrlWriteStoresItsTwoFields := by
  unfold Obligations.CtrlWriteStoresItsTwoFields
  intro s data hidle
  refine ⟨ctrlOfData data, ?_, rfl, fun k hk => ?_⟩
  · rw [exec, execWrCtrl, lockedWrite_stores hidle]
  · simp [ctrlOfData, hk]

/-- Settles O23: each field is the low bits of DATA. -/
theorem plainWritesStoreTheLowBits : Obligations.PlainWritesStoreTheLowBits := by
  unfold Obligations.PlainWritesStoreTheLowBits
  intro s data hidle
  rw [← data8_eq_setWidth, ← data16_eq_setWidth]
  refine ⟨?_, ?_, ?_, ?_⟩
  · rw [exec, execWrOpcode, lockedWrite_stores hidle]
  · rw [exec, execWrAddress, lockedWrite_stores hidle]
  · rw [exec, execWrTimeoutPolls, lockedWrite_stores hidle]
  · rw [exec, execWrStatusIndex, lockedWrite_stores hidle]

/-- Settles O24: both registers take the clamp of DATA's 17 low bits. -/
theorem pointerAndLengthWritesClamp : Obligations.PointerAndLengthWritesClamp := by
  unfold Obligations.PointerAndLengthWritesClamp
  intro s data hidle
  refine ⟨clampToFb (data17 data), ?_, ?_, ?_⟩
  · rw [clampToFb_toNat, data17_toNat]
  · rw [exec, execWrBufPtr, lockedWrite_stores hidle]
  · rw [exec, execWrBufLen, lockedWrite_stores hidle]

end Sys2Proof.Machine
end

section
/-! PROOFS. The checksum engine (41_checksum.md) and the commands of one effect: R140's loop, the
residue of R142, CRC_BUF as a read of FB, and what each of these commands leaves as it was. -/

namespace Sys2Proof.Machine

/-! ### R140's loop -/

/-- The model's recursion takes the next step first; the last step can be taken out instead. -/
theorem crcShifts_succ_last (n : Nat) (c : BitVec 16) :
    crcShifts (n + 1) c = crcShift (crcShifts n c) := by
  induction n generalizing c with
  | zero => rfl
  | succ n ih => exact ih (crcShift c)

theorem crcShifts_eq_repeat (n : Nat) (c : BitVec 16) :
    crcShifts n c = Nat.repeat crcShift n c := by
  induction n with
  | zero => rfl
  | succ n ih => rw [crcShifts_succ_last, ih, Nat.repeat]

/-- `crc_byte` as R140 writes it, a loop of eight steps. -/
theorem crcByte_eq_repeat (c : BitVec 16) (b : Byte) :
    crcByte c b =
      Nat.repeat (fun c : BitVec 16 => if c.getLsbD 0 then (c >>> 1) ^^^ 0xA001 else c >>> 1) 8
        (c ^^^ b.setWidth 16) :=
  crcShifts_eq_repeat 8 _

/-! ### The residue (R142) -/

/-- While no 1 bit leaves, the polynomial never enters: the steps are a plain shift. -/
theorem crcShifts_of_low_bits_zero {n : Nat} {c : BitVec 16} (h : ∀ i < n, c.getLsbD i = false) :
    crcShifts n c = c >>> n := by
  induction n with
  | zero => rfl
  | succ n ih =>
    have hbit : (c >>> n).getLsbD 0 = false := by
      rw [BitVec.getLsbD_ushiftRight]
      exact h n n.lt_succ_self
    rw [crcShifts_succ_last, ih fun i hi => h i (Nat.lt_succ_of_lt hi), crcShift, hbit,
      if_neg Bool.false_ne_true, BitVec.shiftRight_add]

/-- Folding the low byte of the accumulator cancels it: its high byte remains. -/
theorem crcByte_lo8 (c : BitVec 16) : crcByte c (lo8 c) = (hi8 c).setWidth 16 := by
  have hlow : ∀ i < 8, (c ^^^ (lo8 c).setWidth 16).getLsbD i = false := by
    intro i hi
    simp [lo8, hi, show i < 16 by omega]
  rw [crcByte, crcShifts_of_low_bits_zero hlow]
  apply BitVec.eq_of_getLsbD_eq
  intro i hi
  by_cases h8 : i < 8
  · simp [lo8, hi8, h8, hi]
  · have hout : c.getLsbD (8 + i) = false := BitVec.getLsbD_of_ge c _ (by omega)
    simp [lo8, hi8, h8, hi, hout]

/-- Folding a byte into an accumulator that holds just that byte leaves 0. -/
theorem crcByte_setWidth_self (b : Byte) : crcByte (b.setWidth 16) b = 0 := by
  rw [crcByte, BitVec.xor_self, crcShifts_of_low_bits_zero fun _ _ => BitVec.getLsbD_zero]
  rfl

/-- Any accumulator followed by its own two bytes, low first, folds to 0 (R142). -/
theorem crcSeq_own_bytes (c : BitVec 16) : crcSeq c [lo8 c, hi8 c] = 0 := by
  rw [crcSeq, crcByte_lo8, crcSeq, crcByte_setWidth_self, crcSeq]

/-- Settles O30: the fold is the definition's, the values are computed, and the residue is that of
the accumulator after `f`. -/
theorem checksumValuesAndResidue : Obligations.ChecksumValuesAndResidue := by
  unfold Obligations.ChecksumValuesAndResidue
  refine ⟨fun _ => rfl, fun _ => rfl, fun c b f => ?_, rfl, by decide, by decide,
    by decide +kernel, fun f => ?_⟩
  · rw [crcSeq, crcByte_eq_repeat]
  · rw [checksum, crcSeq_append]
    exact crcSeq_own_bytes _

/-! ### The CRC_DATA write -/

/-- Settles O27: the stored value is `crc_byte` of CRC and the low byte of DATA. -/
theorem crcDataWriteFoldsOneByte : Obligations.CrcDataWriteFoldsOneByte := by
  unfold Obligations.CrcDataWriteFoldsOneByte
  intro s data hidle
  rw [← crcByte_eq_repeat, ← data8_eq_setWidth, exec, execWrCrcData, lockedWrite_stores hidle]

/-! ### The commands -/

/-- A command whose body answers ends in the body's state while BUSY = 0. -/
theorem runCommand_answers {body : State → Except Fault State} {s t : State}
    (hidle : s.status.busy = false) (h : body (accept s) = .ok t) : runCommand body s = .next t := by
  rw [runCommand_idle hidle, h, toOutcome]

/-- Settles O28: each body is a success after its one effect. -/
theorem smallCommandsDoTheirOneEffect : Obligations.SmallCommandsDoTheirOneEffect := by
  unfold Obligations.SmallCommandsDoTheirOneEffect
  intro s ig hidle
  refine ⟨?_, ?_, ?_⟩
  · exact runCommand_answers (body := crcInitBody) hidle rfl
  · exact runCommand_answers (body := argClearBody) hidle rfl
  · exact runCommand_answers (body := flushBody) hidle rfl

/-- A range that holds `f` is read as `f`, with no draw. -/
theorem fbReadRange_of_fbHolds {s : State} {f : List Byte} (hlen : f.length ≤ Config.fbCap)
    (h : FbHolds s f) : fbReadRange 0 f.length s = .ok (f, s) := by
  refine fbReadRange_listed f 0 s (by omega) fun k hk => ?_
  rw [Nat.zero_add, h k hk, List.getElem?_eq_getElem hk]

/-- CRC_BUF takes the checksum of what it reads of FB (R145). -/
theorem crcBufBody_of_read {s u : State} {f : List Byte}
    (h : fbReadRange 0 s.bufLen.toNat s = .ok (f, u)) :
    crcBufBody s = .ok (completeOk { u with crc := checksum f }) := by
  rw [crcBufBody, h]
  rfl

/-- Settles O29: `f` is what the command reads of FB. -/
theorem crcBufComputesTheBuffersChecksum : Obligations.CrcBufComputesTheBuffersChecksum := by
  unfold Obligations.CrcBufComputesTheBuffersChecksum
  intro s ig hidle hcap
  obtain ⟨f, n, hread, hlen, hlisted⟩ :=
    fbReadRange_total s.bufLen.toNat 0 (accept s) (by rwa [Nat.zero_add])
  refine ⟨f, n, hlen, fun i b hi hb => ?_, fun hholds => ?_, ?_⟩
  · exact hlisted i b (hlen ▸ hi) (by rwa [Nat.zero_add])
  · have hexact := fbReadRange_of_fbHolds (s := accept s) (hlen.trans_le hcap) hholds
    rw [hlen, hread] at hexact
    injection hexact with hpair
    exact congrArg (fun p => p.2.draws) hpair
  · have hbody := crcBufBody_of_read (s := accept s) hread
    exact runCommand_answers hidle hbody

end Sys2Proof.Machine
end

section
/-! PROOFS. The frame codec (42_frame_codec.md): the request's layout, ARG_DATA, ENCODE, and DECODE
as the check of a list of bytes, from which the round trip of R156 follows. -/

namespace Sys2Proof.Machine

/-! ### The request's layout (R150) -/

theorem lo8_toNat (v : BitVec 16) : (lo8 v).toNat = v.toNat % 256 := by
  simp [lo8]

theorem hi8_toNat (v : BitVec 16) : (hi8 v).toNat = v.toNat / 256 := by
  have := v.isLt
  simp only [hi8, BitVec.extractLsb'_toNat, Nat.shiftRight_eq_div_pow]
  omega

@[simp] theorem requestBody_length (op : Byte) (addr : BitVec 16) (arg : List Byte) :
    (requestBody op addr arg).length = arg.length + 7 := by
  simp [requestBody]

/-- The trailer follows the bytes it covers. -/
theorem take_buildRequest (op : Byte) (addr : BitVec 16) (arg : List Byte) :
    (buildRequest op addr arg).take (arg.length + 7) = requestBody op addr arg :=
  List.take_left' (requestBody_length op addr arg)

theorem byteAt_append_length (f : List Byte) (lo hi : Byte) :
    byteAt (f ++ [lo, hi]) f.length = lo.toNat ∧ byteAt (f ++ [lo, hi]) (f.length + 1) = hi.toNat := by
  simp [byteAt]

/-- The trailer's two bytes are the request's checksum, the low byte first. -/
theorem buildRequest_trailer (op : Byte) (addr : BitVec 16) (arg : List Byte) :
    byteAt (buildRequest op addr arg) (arg.length + 7) +
      256 * byteAt (buildRequest op addr arg) (arg.length + 8) = (requestCrc op addr arg).toNat := by
  have hbytes := byteAt_append_length (requestBody op addr arg)
    (lo8 (requestCrc op addr arg)) (hi8 (requestCrc op addr arg))
  rw [requestBody_length] at hbytes
  obtain ⟨hlo, hhi⟩ := hbytes
  rw [buildRequest, hlo, hhi, ← le16_toNat, le16_lo8_hi8]

/-- R153's CRC is the value of the trailer. -/
theorem ofNat_trailer (op : Byte) (addr : BitVec 16) (arg : List Byte) :
    BitVec.ofNat 16 (byteAt (buildRequest op addr arg) (arg.length + 7) +
      256 * byteAt (buildRequest op addr arg) (arg.length + 8)) = requestCrc op addr arg := by
  rw [buildRequest_trailer, BitVec.ofNat_toNat, BitVec.setWidth_eq]

/-- The argument begins at byte 7. -/
theorem buildRequest_getElem?_arg (op : Byte) (addr : BitVec 16) (arg : List Byte) {k : Nat}
    (hk : k < arg.length) : (buildRequest op addr arg)[7 + k]? = arg[k]? := by
  rw [Nat.add_comm, buildRequest, List.getElem?_append_left (by rw [requestBody_length]; omega)]
  rfl

/-- Settles O31: bytes 0 to 6 are the literal head of the list, the rest by the lemmas above. -/
theorem buildRequestLaysOutTheFrame : Obligations.BuildRequestLaysOutTheFrame := by
  unfold Obligations.BuildRequestLaysOutTheFrame
  intro op addr arg harg
  have hlen : (BitVec.ofNat 16 (arg.length + 5)).toNat = arg.length + 5 :=
    Nat.mod_eq_of_lt (by omega)
  refine ⟨buildRequest_length op addr arg, rfl, rfl, ?_, ?_, rfl, lo8_toNat addr, hi8_toNat addr,
    fun k => buildRequest_getElem?_arg op addr arg, ?_⟩
  · exact (lo8_toNat _).trans (congrArg (· % 256) hlen)
  · exact (hi8_toNat _).trans (congrArg (· / 256) hlen)
  · rw [take_buildRequest]
    exact buildRequest_trailer op addr arg

/-! ### The ARG_DATA write (R152) -/

theorem appendArg_full {s : State} (data : Word) (h : argCount s = Config.argCap) :
    appendArg data s = .ok (raiseAccessFault s) := if_pos h

theorem appendArg_room {s : State} (data : Word) (h : argCount s ≠ Config.argCap) :
    appendArg data s = .ok { s with arg := s.arg ++ [data8 data] } := if_neg h

/-- Settles O26: at the cap the write is refused, below it the byte goes to the end of ARG. -/
theorem argDataWriteAppendsOneByte : Obligations.ArgDataWriteAppendsOneByte := by
  unfold Obligations.ArgDataWriteAppendsOneByte
  intro s data hidle
  rw [exec, execWrArgData, lockedWrite_idle hidle]
  constructor
  · intro hfull
    rw [appendArg_full data hfull]
    rfl
  · intro hroom
    rw [appendArg_room data hroom]
    refine ⟨_, rfl, rfl, List.length_append, ?_, fun i hi => List.getElem?_append_left hi⟩
    rw [← data8_eq_setWidth]
    exact List.getElem?_concat_length

/-! ### ENCODE (R153) -/

/-- Settles O32: the check of OPCODE decides between BAD_OPCODE and the emission, whose CRC is the
trailer's value. -/
theorem encodeBuildsTheRequestInTheFrameBuffer :
    Obligations.EncodeBuildsTheRequestInTheFrameBuffer := by
  unfold Obligations.EncodeBuildsTheRequestInTheFrameBuffer
  intro s ig hidle
  constructor
  · intro hread hwrite
    have hbody := encodeBody_badOpcode (s := accept s) (not_or.2 ⟨hread, hwrite⟩)
    exact runCommand_answers hidle hbody
  · intro hop harg f n
    obtain ⟨m, hemit, hbytes, hrest, -⟩ := emitRequest_total { accept s with frameLen := 0 } harg
    have hbody := (encodeBody_wireOpcode (s := accept s) hop).trans hemit
    refine ⟨m, ?_, fun i => ?_⟩
    · rw [show BitVec.ofNat 16 (byteAt f (n + 7) + 256 * byteAt f (n + 8)) = _ from
        ofNat_trailer s.opcode s.address s.arg]
      exact runCommand_answers hidle hbody
    · split
      case isTrue hi =>
        have hi' : i < f.length := by rwa [buildRequest_length]
        rw [List.getElem?_eq_getElem hi']
        exact hbytes i hi'
      case isFalse hi => exact hrest i (Nat.le_of_not_lt hi)

/-! ### The parts of DECODE on a buffer that holds known bytes -/

/-- L as a number of the two bytes (R75). -/
theorem le16_eq_ofNat (lo hi : Byte) : le16 lo hi = BitVec.ofNat 16 (lo.toNat + 256 * hi.toNat) := by
  rw [← le16_toNat, BitVec.ofNat_toNat, BitVec.setWidth_eq]

theorem expectedSize_eq_ofNat (lo hi : Byte) :
    expectedSize lo hi = BitVec.ofNat 17 (lo.toNat + 256 * hi.toNat + 4) := by
  rw [← le16_toNat, ← expectedSize_toNat, BitVec.ofNat_toNat, BitVec.setWidth_eq]

/-- A held byte is read as it stands, with no draw. -/
theorem fbRead_of_fbHolds {s : State} {f : List Byte} (hcap : f.length ≤ Config.fbCap)
    (h : FbHolds s f) {i : Nat} (hi : i < f.length) : fbRead i s = .ok (f.getD i 0, s) := by
  refine fbRead_listed (hi.trans_le hcap) ?_
  rw [h i hi, List.getElem?_eq_getElem hi, List.getD_eq_getElem _ _ hi]

theorem FbHolds.take {s : State} {f : List Byte} (h : FbHolds s f) (n : Nat) :
    FbHolds s (f.take n) := by
  intro i hi
  rw [List.length_take] at hi
  rw [h i (by omega), List.getElem?_take_of_lt (by omega)]

/-- The header check compares the first two bytes (R155). -/
theorem headerMatches_of_fbHolds {s : State} {f : List Byte} (hcap : f.length ≤ Config.fbCap)
    (h : FbHolds s f) (h2 : 2 ≤ f.length) :
    headerMatches s = .ok (decide (byteAt f 0 = 0x52 ∧ byteAt f 1 = 0x42), s) := by
  have hgood : (f.getD 0 0 == Config.header0 && f.getD 1 0 == Config.header1) =
      decide (byteAt f 0 = 0x52 ∧ byteAt f 1 = 0x42) := by
    rw [Bool.decide_and, Bool.beq_eq_decide_eq, Bool.beq_eq_decide_eq]
    simp only [← BitVec.toNat_inj]
    rfl
  rw [← hgood]
  simp only [headerMatches, fbRead_of_fbHolds hcap h (i := 0) (by omega),
    fbRead_of_fbHolds hcap h (i := 1) (by omega), bind, Except.bind]

/-- The checksum check leaves the checksum of FB[0 .. L+2) in CRC and compares it with the trailer
(R77). -/
theorem trailerMatches_of_fbHolds {s : State} {f : List Byte} (hcap : f.length ≤ Config.fbCap)
    (h : FbHolds s f) {L : Nat} (hL : L + 4 ≤ f.length) :
    trailerMatches L s =
      .ok (decide (byteAt f (L + 2) + 256 * byteAt f (L + 3) = (checksum (f.take (L + 2))).toNat),
        { s with crc := checksum (f.take (L + 2)) }) := by
  have hlen : (f.take (L + 2)).length = L + 2 := List.length_take_of_le (by omega)
  have hread := fbReadRange_of_fbHolds (by omega) (h.take (L + 2))
  rw [hlen] at hread
  have hcrc : FbHolds { s with crc := checksum (f.take (L + 2)) } f := h
  have hgood : (le16 (f.getD (L + 2) 0) (f.getD (L + 3) 0) == checksum (f.take (L + 2))) =
      decide (byteAt f (L + 2) + 256 * byteAt f (L + 3) = (checksum (f.take (L + 2))).toNat) := by
    rw [Bool.beq_eq_decide_eq]
    simp only [← BitVec.toNat_inj, le16_toNat]
    rfl
  rw [← hgood]
  simp only [trailerMatches, hread, bind, Except.bind,
    fbRead_of_fbHolds hcap hcrc (i := L + 2) (by omega),
    fbRead_of_fbHolds hcap hcrc (i := L + 3) (by omega)]

theorem latchFields_short {L : Nat} (s : State) (hL : L < 5) : latchFields L s = .ok s :=
  if_neg (Nat.not_le.2 hL)

/-- Bytes 4 to 6 are latched, and FIELDS says so (R154). -/
theorem latchFields_of_fbHolds {s : State} {f : List Byte} (hcap : f.length ≤ Config.fbCap)
    (h : FbHolds s f) (h7 : 7 ≤ f.length) {L : Nat} (hL : 5 ≤ L) :
    latchFields L s =
      .ok
        { s with
          rxOpcode := BitVec.ofNat 8 (byteAt f 4)
          rxAddr := BitVec.ofNat 16 (byteAt f 5 + 256 * byteAt f 6)
          status := { s.status with fields := true } } := by
  simp only [latchFields, if_pos hL, fbRead_of_fbHolds hcap h (i := 4) (by omega),
    fbRead_of_fbHolds hcap h (i := 5) (by omega), fbRead_of_fbHolds hcap h (i := 6) (by omega),
    bind, Except.bind, byteAt, le16_eq_ofNat, BitVec.ofNat_toNat, BitVec.setWidth_eq]

/-! ### DECODE of known bytes (R155, R157) -/

/-- What DECODE writes before its first check. -/
def clearDecoded (s : State) : State := { s with frameLen := 0, rxOpcode := 0, rxAddr := 0 }

/-- DECODE up to its length check, on a buffer that holds `f`. -/
theorem decodeBody_of_fbHolds {s : State} {f : List Byte} (hcap : f.length ≤ Config.fbCap)
    (h : FbHolds s f) (hlen : f.length = s.bufLen.toNat) :
    decodeBody s =
      if f.length < 2 then .ok (completeErr .truncated (clearDecoded s))
      else if byteAt f 0 ≠ 0x52 ∨ byteAt f 1 ≠ 0x42 then
        .ok (completeErr .invalidHeader (clearDecoded s))
      else if f.length < 4 then .ok (completeErr .truncated (clearDecoded s))
      else decodeLength f.length (clearDecoded s) := by
  have hcleared : FbHolds (clearDecoded s) f := h
  rw [hlen]
  by_cases h2 : s.bufLen.toNat < 2
  · rw [if_pos h2]
    exact if_pos h2
  rw [if_neg h2]
  refine (if_neg h2).trans ?_
  change headerMatches (clearDecoded s) >>= _ = _
  rw [headerMatches_of_fbHolds hcap hcleared (by omega)]
  by_cases hbad : byteAt f 0 ≠ 0x52 ∨ byteAt f 1 ≠ 0x42
  · rw [if_pos hbad, decide_eq_false (not_and_or.2 hbad)]
    rfl
  · rw [if_neg hbad, decide_eq_true (by omega)]
    rfl

/-- DECODE from its length check up to its checksum check. -/
theorem decodeLength_of_fbHolds {s : State} {f : List Byte} (hcap : f.length ≤ Config.fbCap)
    (h : FbHolds s f) (h4 : 4 ≤ f.length) :
    decodeLength f.length s =
      let L := byteAt f 2 + 256 * byteAt f 3
      let s := { s with frameLen := BitVec.ofNat 17 (L + 4) }
      if L < 2 then .ok (completeErr .lengthInvalid s)
      else if f.length < L + 4 then .ok (completeErr .truncated s)
      else decodeTrailer L s := by
  simp only [decodeLength, fbRead_of_fbHolds hcap h (i := 2) (by omega),
    fbRead_of_fbHolds hcap h (i := 3) (by omega), bind, Except.bind, le16_toNat,
    expectedSize_eq_ofNat]
  rfl

/-- DECODE from its checksum check on. -/
theorem decodeTrailer_of_fbHolds {s : State} {f : List Byte} (hcap : f.length ≤ Config.fbCap)
    (h : FbHolds s f) {L : Nat} (hL : L + 4 ≤ f.length) :
    decodeTrailer L s =
      let c := checksum (f.take (L + 2))
      let s := { s with crc := c }
      if byteAt f (L + 2) + 256 * byteAt f (L + 3) ≠ c.toNat then
        .ok (completeErr .checksumMismatch s)
      else if L < 5 then .ok (completeOk { s with status := { s.status with valid := true } })
      else
        .ok (completeOk
          { s with
            rxOpcode := BitVec.ofNat 8 (byteAt f 4)
            rxAddr := BitVec.ofNat 16 (byteAt f 5 + 256 * byteAt f 6)
            status := { s.status with fields := true, valid := true } }) := by
  have hcrc : FbHolds { s with crc := checksum (f.take (L + 2)) } f := h
  simp only [decodeTrailer, trailerMatches_of_fbHolds hcap h hL, bind, Except.bind,
    decide_eq_true_eq, ite_not]
  by_cases h5 : L < 5
  · simp only [latchFields_short _ h5, if_pos h5]
  · simp only [latchFields_of_fbHolds hcap hcrc (by omega) (Nat.le_of_not_lt h5), if_neg h5]

/-- DECODE, accepted on a buffer that holds `f`, ends as the checks of the list say. -/
theorem decodeBody_accept {s : State} {f : List Byte} (hlen : f.length = s.bufLen.toNat)
    (hcap : f.length ≤ Config.fbCap) (h : FbHolds s f) :
    decodeBody (accept s) = .ok (decodeExpected f s) := by
  have hcleared : FbHolds (clearDecoded (accept s)) f := h
  rw [decodeBody_of_fbHolds (s := accept s) hcap h hlen]
  by_cases h4 : f.length < 4
  · simp only [decodeExpected, if_pos h4]
    split_ifs <;> rfl
  rw [decodeLength_of_fbHolds hcap hcleared (Nat.le_of_not_lt h4)]
  by_cases hshort : f.length < byteAt f 2 + 256 * byteAt f 3 + 4
  · simp only [decodeExpected, if_neg h4, if_pos hshort]
    split_ifs <;> rfl
  simp only [decodeExpected, if_neg h4, if_neg hshort]
  rw [decodeTrailer_of_fbHolds hcap ?_ (Nat.le_of_not_lt hshort)]
  · dsimp only
    split_ifs <;> rfl
  · exact h

/-- Settles O33: a command whose body answers is that answer. -/
theorem decodeIsTheCheckOfTheBufferedBytes : Obligations.DecodeIsTheCheckOfTheBufferedBytes := by
  unfold Obligations.DecodeIsTheCheckOfTheBufferedBytes
  intro s ig f hidle hlen hcap hholds
  exact runCommand_answers hidle (decodeBody_accept hlen hcap hholds)

/-- DECODE writes neither FB nor BUF_LEN, and ends with BUSY = 0. -/
theorem decodeExpected_frame (f : List Byte) (s : State) :
    (decodeExpected f s).fb = s.fb ∧ (decodeExpected f s).bufLen = s.bufLen ∧
      (decodeExpected f s).status.busy = false := by
  simp only [decodeExpected]
  split_ifs <;> exact ⟨rfl, rfl, rfl⟩

/-- Each outcome writes its registers from `f` alone and keeps the others, so the same checks leave
it as it is. -/
theorem decodeExpected_idem (f : List Byte) (s : State) :
    decodeExpected f (decodeExpected f s) = decodeExpected f s := by
  generalize ht : decodeExpected f s = t
  simp only [decodeExpected] at ht ⊢
  split_ifs at ht ⊢ <;> rw [← ht]

/-- Settles O35: the second DECODE finds the same bytes, and the checks are idempotent. -/
theorem decodeTwiceIsDecodeOnce : Obligations.DecodeTwiceIsDecodeOnce := by
  unfold Obligations.DecodeTwiceIsDecodeOnce
  intro s t ig ig' f hidle hlen hcap hholds hdecode
  rw [decodeIsTheCheckOfTheBufferedBytes s ig f hidle hlen hcap hholds] at hdecode
  obtain rfl : decodeExpected f s = t := by injection hdecode
  obtain ⟨hfb, hbuf, hbusy⟩ := decodeExpected_frame f s
  refine ⟨hfb, hbuf, ?_⟩
  rw [decodeIsTheCheckOfTheBufferedBytes _ ig' f hbusy (by rw [hbuf, hlen]) hcap
    (by rwa [FbHolds, hfb]), decodeExpected_idem]

/-! ### DECODE of any buffer (R155, R204) -/

/-- Settles O34: an accepted DECODE answers, and ends in an error or in a success with VALID. -/
theorem decodeAlwaysEndsAndKeepsTheRest : Obligations.DecodeAlwaysEndsAndKeepsTheRest := by
  unfold Obligations.DecodeAlwaysEndsAndKeepsTheRest
  intro s ig hidle hcap
  obtain ⟨fl, op, ad, c, d, t, hbody, -, hend⟩ := decodeBody_total (accept s) hcap
  refine ⟨t, runCommand_answers hidle hbody, ?_⟩
  rcases hend with ⟨code, hcode, rfl⟩ | ⟨fields, rfl⟩
  · refine ⟨rfl, ?_, iff_of_false nofun hcode, nofun⟩
    simp [doneStatus, hcode]
  · exact ⟨rfl, rfl, iff_of_true rfl rfl, fun _ => rfl⟩

/-! ### ENCODE and then DECODE (R156) -/

/-- Bytes that pass every check of R155, with L at least 5. -/
theorem decodeExpected_valid {f : List Byte} {L : Nat} (s : State) (hlen : f.length = L + 4)
    (hheader : byteAt f 0 = 0x52 ∧ byteAt f 1 = 0x42) (hL : byteAt f 2 + 256 * byteAt f 3 = L)
    (h5 : 5 ≤ L)
    (hcrc : byteAt f (L + 2) + 256 * byteAt f (L + 3) = (checksum (f.take (L + 2))).toNat) :
    decodeExpected f s =
      { s with
        phase := .idle, frameLen := BitVec.ofNat 17 (L + 4), crc := checksum (f.take (L + 2))
        rxOpcode := BitVec.ofNat 8 (byteAt f 4)
        rxAddr := BitVec.ofNat 16 (byteAt f 5 + 256 * byteAt f 6)
        status := doneStatus true true .noError 0 } := by
  simp only [decodeExpected, hL]
  rw [if_neg (by omega), if_neg (by omega), if_neg (by omega), if_neg (by omega),
    if_neg (by omega), if_neg (not_not_intro hcrc), if_neg (by omega)]

/-- DECODE of a request frame latches the fields it was built of. -/
theorem decodeExpected_buildRequest (op : Byte) (addr : BitVec 16) {arg : List Byte}
    (harg : arg.length ≤ 65530) (s : State) :
    decodeExpected (buildRequest op addr arg) s =
      { s with
        phase := .idle, frameLen := BitVec.ofNat 17 (arg.length + 9), crc := requestCrc op addr arg
        rxOpcode := op, rxAddr := addr, status := doneStatus true true .noError 0 } := by
  obtain ⟨hlen, h0, h1, h2, h3, h4, h5, h6, -, hcrc⟩ := buildRequestLaysOutTheFrame op addr arg harg
  rw [decodeExpected_valid (L := arg.length + 5) s hlen ⟨h0, h1⟩ (by omega) (by omega) hcrc,
    h4, h5, h6, take_buildRequest, Nat.mod_add_div]
  simp only [BitVec.ofNat_toNat, BitVec.setWidth_eq]
  rfl

/-- Settles O36: ENCODE leaves the request in FB and its size in BUF_LEN, so DECODE is the check of
the request. -/
theorem encodeThenDecodeRoundTrips : Obligations.EncodeThenDecodeRoundTrips := by
  unfold Obligations.EncodeThenDecodeRoundTrips
  intro s ig ig' hidle hop harg
  obtain ⟨-, hencode⟩ := encodeBuildsTheRequestInTheFrameBuffer s ig hidle
  obtain ⟨m, hnext, hget⟩ := hencode hop harg
  have hsize : (BitVec.ofNat 17 (argCount s + 9)).toNat = argCount s + 9 :=
    Nat.mod_eq_of_lt (by omega)
  have hlen : (buildRequest s.opcode s.address s.arg).length = argCount s + 9 :=
    buildRequest_length _ _ _
  have hdecode t ht hbuf := decodeIsTheCheckOfTheBufferedBytes t ig'
    (buildRequest s.opcode s.address s.arg) ht hbuf (by omega)
  refine ⟨_, _, hnext, hdecode _ rfl (hlen.trans hsize.symm) fun i hi => ?_, ?_⟩
  · rw [hget, if_pos (hlen ▸ hi)]
  · rw [decodeExpected_buildRequest _ _ harg]
    refine ⟨rfl, rfl, rfl, rfl, rfl, rfl, fun k hk => ?_, hsize, hsize⟩
    exact (hget (7 + k)).trans ((if_pos (by omega)).trans (buildRequest_getElem?_arg _ _ _ hk))

end Sys2Proof.Machine
end

section
/-! PROOFS. The steps of a running TRANSACT that receive nothing (43_reassembler.md R171-R176,
R182): its acceptance, the transmission of a byte, a poll without progress and an I/O failure. -/

namespace Sys2Proof.Machine

/-! ### Acceptance (R172) -/

/-- What TRANSACT leaves in either phase; with nothing to send RX begins at once. -/
theorem transactBody_eq (s : State) :
    transactBody s = .ok { startTransact s with phase := if s.bufLen = 0 then .rx else .tx } := by
  have hzero : s.bufLen.toNat = 0 ↔ s.bufLen = 0 := BitVec.toNat_eq (y := 0#17).symm
  unfold transactBody
  by_cases h : s.bufLen = 0
  · rw [if_pos (hzero.2 h), if_pos h]
    simp only [enterRx, startTransact, h]
  · rw [if_neg (mt hzero.1 h), if_neg h]

/-- Settles O39: the command's body in the state that acceptance has cleared. -/
theorem transactStartsTransmittingOrReceiving :
    Obligations.TransactStartsTransmittingOrReceiving := by
  unfold Obligations.TransactStartsTransmittingOrReceiving
  intro s ig hidle
  exact runCommand_answers hidle (transactBody_eq (accept s))

/-! ### Transmission (R174) -/

/-- TX_ACCEPT queues the byte it reads, and after the last byte RX begins (R174). -/
theorem txAcceptStep_of_read {s u : State} {b : Byte} (hp : s.phase = .tx)
    (h : fbRead s.txIdx s = .ok (b, u)) :
    txAcceptStep s =
      .ok (if u.txIdx + 1 = u.txLen then enterRx (queueByte b u) else queueByte b u) := by
  simp only [txAcceptStep, hp, h, bind, Except.bind]
  rfl

/-- Settles O40: the byte sent is the one that FB's read at tx_idx gives. -/
theorem acceptSendsTheNextByte : Obligations.AcceptSendsTheNextByte := by
  unfold Obligations.AcceptSendsTheNextByte
  intro s hp hi
  obtain ⟨b, n, hread, hlisted⟩ := fbRead_total s hi
  refine ⟨b, n, hlisted, ?_⟩
  rw [act_txAccept, txAcceptStep_of_read hp hread, toOutcome]
  split <;> rfl

/-! ### Polls without progress (R175) -/

/-- Below the threshold IDLE_POLLS does not wrap, since TIMEOUT_POLLS is at most 65535. -/
theorem Inv.idlePolls_succ {s : State} (hs : Inv s) (hp : s.phase ≠ .idle) :
    (s.idlePolls + 1).toNat = s.idlePolls.toNat + 1 := by
  obtain ⟨hbusy, -⟩ := hs.busy_status hp
  obtain ⟨-, -, -, -, -, -, -, hpolls⟩ := hs
  have hlt := hpolls hbusy
  have hmax := s.timeoutPolls.isLt
  exact BitVec.toNat_add_of_lt (by simp; omega)

/-- In TX, and in RX with nothing to receive, a poll is one without progress. -/
theorem pollTickStep_noProgress {s : State}
    (h : s.phase = .tx ∨ (s.phase = .rx ∧ s.transport.rx = [])) :
    pollTickStep s = .ok (idlePoll s) := by
  rcases h with htx | ⟨hrx, hempty⟩
  · exact pollTickStep_tx htx
  · rw [pollTickStep_rx hrx, if_pos hempty]

/-- Settles O42: the poll counts, and the count reaches the threshold exactly at the timeout. -/
theorem pollWithoutProgressCountsToTheTimeout :
    Obligations.PollWithoutProgressCountsToTheTimeout := by
  unfold Obligations.PollWithoutProgressCountsToTheTimeout
  intro s hs h
  have hp : s.phase ≠ .idle := by rcases h with h | ⟨h, -⟩ <;> simp [h]
  refine ⟨hs.idlePolls_succ hp, ?_⟩
  rw [act_pollTick, pollTickStep_noProgress h, toOutcome, idlePoll, hs.idlePolls_succ hp]
  rfl

/-! ### I/O failure, arrivals, drains and idle polls (R171, R182, R184) -/

theorem ioFailStep_idle {s : State} (after : Transport) (h : s.phase = .idle) :
    ioFailStep after s = { s with transport := after } := by
  unfold ioFailStep
  rw [h]

theorem ioFailStep_running {s : State} (after : Transport) (h : s.phase ≠ .idle) :
    ioFailStep after s = tFail .ioFailure { s with transport := after } := by
  unfold ioFailStep
  split
  · exact absurd ‹_› h
  all_goals rfl

/-- Settles O47: a running TRANSACT ends by `t_fail`, an idle engine keeps all but the transport. -/
theorem ioFailureEndsARunningTransact : Obligations.IoFailureEndsARunningTransact := by
  unfold Obligations.IoFailureEndsARunningTransact
  intro s after
  refine ⟨fun hidle => ?_, fun hrunning => ?_⟩
  · rw [act_ioFail, ioFailStep_idle after hidle]
  · rw [act_ioFail, ioFailStep_running after hrunning]
    rfl

theorem drain_nil {s : State} (h : s.transport.txq = []) : drain s = s := by
  unfold drain
  rw [h]

theorem drain_cons {s : State} {b : Byte} {q : List Byte} (h : s.transport.txq = b :: q) :
    drain s =
      { s with transport := { s.transport with txq := q, wire := s.transport.wire ++ [b] } } := by
  unfold drain
  rw [h]

/-- Settles O48, an event for each clause. -/
theorem transportStepsAndIdleSteps : Obligations.TransportStepsAndIdleSteps := by
  unfold Obligations.TransportStepsAndIdleSteps
  intro s
  refine ⟨fun bs => rfl, fun hnil => ?_, fun b q hcons => ?_, fun hidle => ?_⟩
  · rw [act_drain, drain_nil hnil]
  · rw [act_drain, drain_cons hcons]
  · rw [act_pollTick, pollTickStep_idle hidle, toOutcome]

end Sys2Proof.Machine
end

section
/-! PROOFS. The receive of a response (43_reassembler.md R176-R181): the checks of a complete frame,
the receive of one byte as an equation, and the poll's loop over the bytes that have arrived. -/

namespace Sys2Proof.Machine

/-! ### The checks of a complete response (R178-R180) -/

/-- The status check of a buffer that holds `f` looks at byte STATUS_INDEX of `f` (R180). -/
theorem statusCheck_of_fbHolds {s : State} {f : List Byte} (hcap : f.length ≤ Config.fbCap)
    (h : FbHolds s f) {L : Nat} (hL : L + 2 ≤ f.length) :
    statusCheck L s =
      let v := byteAt f s.statusIndex.toNat
      if L + 2 ≤ s.statusIndex.toNat then .ok (tFail .malformed s)
      else if (v = 0 ∨ v = 1 ∨ v = 2) ∧ s.ctrl.ackMask.getLsbD v = true then .ok (succeed s)
      else
        .ok (tFail .deviceError
          { s with status := { s.status with devCode := BitVec.ofNat 8 v } }) := by
  have hsmall (v : Nat) : v ≤ 2 ↔ v = 0 ∨ v = 1 ∨ v = 2 := by omega
  by_cases hi : L + 2 ≤ s.statusIndex.toNat
  · simp only [statusCheck, if_pos hi]
  · simp only [statusCheck, if_neg hi, bind, Except.bind, hsmall, byteAt, BitVec.ofNat_toNat,
      BitVec.setWidth_eq, fbRead_of_fbHolds hcap h (i := s.statusIndex.toNat) (by omega)]

/-- What a complete response with a good checksum latches: its checksum, and with L of at least 5
its fields (R178, R179). -/
def latchResponse (f : List Byte) (s : State) : State :=
  { s with
    crc := checksum (f.take (f.length - 4 + 2))
    rxOpcode := if f.length - 4 < 5 then s.rxOpcode else BitVec.ofNat 8 (byteAt f 4)
    rxAddr :=
      if f.length - 4 < 5 then s.rxAddr else BitVec.ofNat 16 (byteAt f 5 + 256 * byteAt f 6)
    status :=
      { s.status with fields := if f.length - 4 < 5 then s.status.fields else true } }

theorem latchFields_response {s : State} {f : List Byte} (hcap : f.length ≤ Config.fbCap)
    (h : FbHolds s f) :
    latchFields (f.length - 4) { s with crc := checksum (f.take (f.length - 4 + 2)) } =
      .ok (latchResponse f s) := by
  have hcrc : FbHolds { s with crc := checksum (f.take (f.length - 4 + 2)) } f := h
  unfold latchResponse
  by_cases h5 : f.length - 4 < 5
  · simp only [latchFields_short _ h5, if_pos h5]
  · simp only [latchFields_of_fbHolds hcap hcrc (by omega) (Nat.le_of_not_lt h5), if_neg h5]

/-- The checks from the checksum on. -/
theorem finishTrailer_of_fbHolds {s : State} {f : List Byte} (h4 : 4 ≤ f.length)
    (hcap : f.length ≤ Config.fbCap) (h : FbHolds s f) :
    finishTrailer (f.length - 4) s =
      let L := f.length - 4
      let c := checksum (f.take (L + 2))
      if byteAt f (L + 2) + 256 * byteAt f (L + 3) ≠ c.toNat then
        .ok (tFail .checksumMismatch { s with crc := c })
      else statusGate L (latchResponse f s) := by
  simp only [finishTrailer, trailerMatches_of_fbHolds hcap h (L := f.length - 4) (by omega),
    bind, Except.bind, decide_eq_true_eq, latchFields_response hcap h, ite_not]

theorem finish_of_fbHolds {s : State} {f : List Byte} (h4 : 4 ≤ f.length)
    (hcap : f.length ≤ Config.fbCap) (hlen : f.length = s.frameLen.toNat) (h : FbHolds s f) :
    finish s =
      if byteAt f 0 ≠ 0x52 ∨ byteAt f 1 ≠ 0x42 then .ok (tFail .invalidHeader s)
      else if f.length - 4 < 2 then .ok (tFail .lengthInvalid s)
      else finishTrailer (f.length - 4) s := by
  simp only [finish, headerMatches_of_fbHolds hcap h (by omega), bind, Except.bind, ← hlen]
  by_cases hbad : byteAt f 0 ≠ 0x52 ∨ byteAt f 1 ≠ 0x42
  · rw [if_pos hbad, decide_eq_false (not_and_or.2 hbad)]
    rfl
  · rw [if_neg hbad, decide_eq_true (by omega)]
    rfl

/-- The checks of the list in the words of R178 to R181. -/
theorem finishExpected_eq (f : List Byte) (s : State) :
    finishExpected f s =
      let L := f.length - 4
      let c := checksum (f.take (L + 2))
      let v := byteAt f s.statusIndex.toNat
      let latched := latchResponse f s
      if byteAt f 0 ≠ 0x52 ∨ byteAt f 1 ≠ 0x42 then tFail .invalidHeader s
      else if L < 2 then tFail .lengthInvalid s
      else if byteAt f (L + 2) + 256 * byteAt f (L + 3) ≠ c.toNat then
        tFail .checksumMismatch { s with crc := c }
      else if s.ctrl.statusEn = false then succeed latched
      else if L + 2 ≤ s.statusIndex.toNat then tFail .malformed latched
      else if (v = 0 ∨ v = 1 ∨ v = 2) ∧ s.ctrl.ackMask.getLsbD v = true then succeed latched
      else
        tFail .deviceError
          { latched with status := { latched.status with devCode := BitVec.ofNat 8 v } } := rfl

/-- The status gate of a response that holds `f` (R179, R180). -/
theorem statusGate_of_fbHolds {s : State} {f : List Byte} (hcap : f.length ≤ Config.fbCap)
    (h : FbHolds s f) {L : Nat} (hL : L + 2 ≤ f.length) :
    statusGate L s =
      let v := byteAt f s.statusIndex.toNat
      .ok
        (if s.ctrl.statusEn = false then succeed s
        else if L + 2 ≤ s.statusIndex.toNat then tFail .malformed s
        else if (v = 0 ∨ v = 1 ∨ v = 2) ∧ s.ctrl.ackMask.getLsbD v = true then succeed s
        else
          tFail .deviceError
            { s with status := { s.status with devCode := BitVec.ofNat 8 v } }) := by
  cases hen : s.ctrl.statusEn with
  | false => simp only [statusGate, hen, Bool.false_eq_true, if_false, if_true]
  | true =>
    simp only [statusGate, hen, Bool.true_eq_false, if_false, if_true, apply_ite Except.ok,
      statusCheck_of_fbHolds hcap h hL]

/-- Settles O45: the header and the length, the trailer, and then the status gate. -/
theorem finishIsTheCheckOfTheReceivedBytes : Obligations.FinishIsTheCheckOfTheReceivedBytes := by
  unfold Obligations.FinishIsTheCheckOfTheReceivedBytes
  intro s f h4 hcap hlen h
  have hlatched : FbHolds (latchResponse f s) f := h
  have hgate := statusGate_of_fbHolds hcap hlatched (L := f.length - 4) (by omega)
  simp only [finish_of_fbHolds h4 hcap hlen h, finishTrailer_of_fbHolds h4 hcap h, hgate,
    finishExpected_eq, apply_ite Except.ok]
  rfl

/-- However the checks end, the TRANSACT is over (R107). -/
theorem finishExpected_ended (f : List Byte) (s : State) :
    (finishExpected f s).phase = .idle ∧ (finishExpected f s).status.busy = false ∧
      (finishExpected f s).status.done = true := by
  rw [finishExpected_eq]
  dsimp only
  split_ifs <;> exact ⟨rfl, rfl, rfl⟩

/-- What the checks write: no register that says where the response stands (R178-R181). -/
theorem finishExpected_frame (f : List Byte) (s : State) :
    (finishExpected f s).fb = s.fb ∧ (finishExpected f s).bufLen = s.bufLen ∧
      (finishExpected f s).frameLen = s.frameLen ∧
      (finishExpected f s).idlePolls = s.idlePolls := by
  rw [finishExpected_eq]
  dsimp only
  split_ifs <;> exact ⟨rfl, rfl, rfl, rfl⟩

/-- VALID needs every check of R178 to have passed, and then the checks end in success. -/
theorem finishExpected_valid {f : List Byte} {s : State} (hs : s.status.valid = false)
    (h : (finishExpected f s).status.valid = true) :
    (byteAt f 0 = 0x52 ∧ byteAt f 1 = 0x42) ∧ 2 ≤ f.length - 4 ∧
      byteAt f (f.length - 4 + 2) + 256 * byteAt f (f.length - 4 + 3) =
        (checksum (f.take (f.length - 4 + 2))).toNat ∧
      finishExpected f s = succeed (latchResponse f s) := by
  have hfailed {P : Prop} (hv : s.status.valid = true) : P :=
    (Bool.false_ne_true (hs.symm.trans hv)).elim
  rw [finishExpected_eq] at h ⊢
  dsimp only at h ⊢
  split_ifs at h ⊢ with hheader hlen htrailer hen hindex hack
  · exact hfailed h
  · exact hfailed h
  · exact hfailed h
  · exact ⟨by omega, by omega, not_not.1 htrailer, rfl⟩
  · exact hfailed h
  · exact ⟨by omega, by omega, not_not.1 htrailer, rfl⟩
  · exact hfailed h

/-! ### The receive of one byte (R177) -/

/-- Whether FRAME_LEN bytes have come (R177). -/
abbrev FrameComplete (s : State) : Prop := 4 ≤ s.bufLen.toNat ∧ s.bufLen = s.frameLen

/-- What the receive of a byte writes before it looks whether the frame is complete (R177). -/
def storeByte (b : Byte) (s : State) : State :=
  { s with
    fb := Memory.set s.fb s.bufLen.toNat b, bufLen := s.bufLen + 1
    frameLen :=
      if s.bufLen.toNat = 3 then expectedSize ((Memory.get s.fb 2).getD 0) b else s.frameLen }

/-- What stands in FB and FRAME_LEN after any number of received bytes, whether or not they complete
the frame: the bytes are listed, and from the fourth on FRAME_LEN is the size they give (R47). -/
def ReceivedOk (s : State) : Prop :=
  (∀ i, i < s.bufLen.toNat → (Memory.get s.fb i).isSome = true) ∧
    (s.bufLen.toNat < 4 → s.frameLen = 0) ∧
    (4 ≤ s.bufLen.toNat → s.frameLen.toNat = listedLength s + 4)

/-- What the RX phase asks of the state before the next byte: the frame is not complete (R47). -/
def ReadyToReceive (s : State) : Prop :=
  ReceivedOk s ∧ (4 ≤ s.bufLen.toNat → s.bufLen.toNat < s.frameLen.toNat)

theorem Inv.readyToReceive {s : State} (hs : Inv s) (hp : s.phase = .rx) : ReadyToReceive s := by
  obtain ⟨-, -, -, hunsized, hlt, hlisted, hsized, -⟩ := hs
  exact ⟨⟨hlisted hp, hunsized hp, hsized hp⟩, hlt hp⟩

theorem ReceivedOk.frameLen_le {s : State} (h : ReceivedOk s) : s.frameLen.toNat ≤ 65539 := by
  obtain ⟨-, hunsized, hsized⟩ := h
  by_cases h4 : 4 ≤ s.bufLen.toNat
  · have hlo := ((Memory.get s.fb 2).getD 0).isLt
    have hhi := ((Memory.get s.fb 3).getD 0).isLt
    rw [hsized h4, listedLength]
    omega
  · rw [hunsized (by omega)]
    decide

theorem ReadyToReceive.bufLen_lt {s : State} (h : ReadyToReceive s) : s.bufLen.toNat < 65539 := by
  obtain ⟨hrec, hlt⟩ := h
  have hcap := hrec.frameLen_le
  omega

theorem ReadyToReceive.bufLen_succ {s : State} (h : ReadyToReceive s) :
    (s.bufLen + 1).toNat = s.bufLen.toNat + 1 := by
  have hlt := h.bufLen_lt
  exact BitVec.toNat_add_of_lt (by simp; omega)

theorem storeByte_get (b : Byte) (s : State) (i : Nat) :
    Memory.get (storeByte b s).fb i =
      if i = s.bufLen.toNat then some b else Memory.get s.fb i := Memory.get_set ..

/-- From the fourth byte on, a byte leaves the two that give the length. -/
theorem listedLength_storeByte {s : State} (b : Byte) (h : 4 ≤ s.bufLen.toNat) :
    listedLength (storeByte b s) = listedLength s := by
  rw [listedLength, storeByte_get, storeByte_get, if_neg (by omega), if_neg (by omega),
    listedLength]

/-- The fourth byte is the length's high byte. -/
theorem listedLength_storeByte_fourth {s : State} (b : Byte) (h : s.bufLen.toNat = 3) :
    listedLength (storeByte b s) = ((Memory.get s.fb 2).getD 0).toNat + 256 * b.toNat := by
  rw [listedLength, storeByte_get, storeByte_get, if_neg (by omega), if_pos h.symm,
    Option.getD_some]

theorem ReadyToReceive.receivedOk_storeByte {s : State} (b : Byte) (h : ReadyToReceive s) :
    ReceivedOk (storeByte b s) := by
  have hsucc : (storeByte b s).bufLen.toNat = s.bufLen.toNat + 1 := h.bufLen_succ
  obtain ⟨⟨hlisted, hunsized, hsized⟩, -⟩ := h
  refine ⟨fun i hi => ?_, fun hlt => ?_, fun h4 => ?_⟩
  · rw [storeByte_get]
    split
    · rfl
    · exact hlisted i (by omega)
  · exact (if_neg (by omega)).trans (hunsized (by omega))
  · by_cases h3 : s.bufLen.toNat = 3
    · rw [listedLength_storeByte_fourth b h3, ← le16_toNat, ← expectedSize_toNat]
      exact congrArg BitVec.toNat (if_pos h3)
    · rw [listedLength_storeByte b (by omega), ← hsized (by omega)]
      exact congrArg BitVec.toNat (if_neg h3)

/-- A byte that does not complete the frame leaves the next one to receive. -/
theorem ReadyToReceive.ready_storeByte {s : State} {b : Byte} (h : ReadyToReceive s)
    (hc : ¬ FrameComplete (storeByte b s)) : ReadyToReceive (storeByte b s) := by
  have hsucc : (storeByte b s).bufLen.toNat = s.bufLen.toNat + 1 := h.bufLen_succ
  have hrec := h.receivedOk_storeByte b
  refine ⟨hrec, fun h4 => ?_⟩
  have hne : (storeByte b s).bufLen.toNat ≠ (storeByte b s).frameLen.toNat :=
    fun he => hc ⟨h4, BitVec.eq_of_toNat_eq he⟩
  by_cases h3 : s.bufLen.toNat = 3
  · obtain ⟨-, -, hsized⟩ := hrec
    have hsize := hsized h4
    omega
  · have hsame : (storeByte b s).frameLen = s.frameLen := if_neg h3
    obtain ⟨-, hlt⟩ := h
    have hbefore := hlt (by omega)
    rw [hsame] at hne ⊢
    omega

/-- FRAME_LEN is latched from two listed bytes with no draw (R177). -/
theorem latchFrameLen_fourth {s : State} {lo hi : Byte} (h4 : s.bufLen = 4)
    (hlo : Memory.get s.fb 2 = some lo) (hhi : Memory.get s.fb 3 = some hi) :
    latchFrameLen s = .ok { s with frameLen := expectedSize lo hi } := by
  simp only [latchFrameLen, if_pos h4, fbRead_listed (by decide : 2 < Config.fbCap) hlo,
    fbRead_listed (by decide : 3 < Config.fbCap) hhi, bind, Except.bind]

theorem latchFrameLen_other {s : State} (h4 : s.bufLen ≠ 4) : latchFrameLen s = .ok s := if_neg h4

theorem ReadyToReceive.latchFrameLen_eq {s : State} (b : Byte) (h : ReadyToReceive s) :
    latchFrameLen { s with fb := Memory.set s.fb s.bufLen.toNat b, bufLen := s.bufLen + 1 } =
      .ok (storeByte b s) := by
  have hfourth : s.bufLen + 1 = 4 ↔ s.bufLen.toNat = 3 := by
    rw [← BitVec.toNat_inj, h.bufLen_succ]
    exact Nat.succ_inj
  obtain ⟨⟨hlisted, -⟩, -⟩ := h
  by_cases h3 : s.bufLen.toNat = 3
  · obtain ⟨lo, hlo⟩ := Option.isSome_iff_exists.1 (hlisted 2 (by omega))
    have hlo' : Memory.get (Memory.set s.fb s.bufLen.toNat b) 2 = some lo := by
      rw [Memory.get_set_other _ _ _ _ (by omega), hlo]
    have hhi' : Memory.get (Memory.set s.fb s.bufLen.toNat b) 3 = some b := by
      rw [h3, Memory.get_set_same]
    rw [latchFrameLen_fourth (hfourth.2 h3) hlo' hhi', storeByte, if_pos h3, hlo, Option.getD_some]
  · rw [latchFrameLen_other (mt hfourth.1 h3), storeByte, if_neg h3]

/-- The byte is stored, and the frame's last byte starts the checks. -/
theorem ReadyToReceive.rxByte_eq {s : State} (b : Byte) (h : ReadyToReceive s) :
    rxByte b s =
      if FrameComplete (storeByte b s) then finish (storeByte b s) else .ok (storeByte b s) := by
  simp only [rxByte, fbWrite_total b s h.bufLen_lt, bind, Except.bind, h.latchFrameLen_eq b]

/-- Settles O44: FB and FRAME_LEN are those of `storeByte`. -/
theorem receivedByteIsStoredAndMayCompleteTheFrame :
    Obligations.ReceivedByteIsStoredAndMayCompleteTheFrame := by
  unfold Obligations.ReceivedByteIsStoredAndMayCompleteTheFrame
  intro s b lo hs hp hlo
  have hready := hs.readyToReceive hp
  refine ⟨(storeByte b s).fb, (storeByte b s).frameLen, storeByte_get b s, fun h3 => ?_,
    fun h3 => if_neg h3, hready.bufLen_succ, hready.rxByte_eq b⟩
  have hsize : (storeByte b s).frameLen = expectedSize ((Memory.get s.fb 2).getD 0) b := if_pos h3
  rw [hsize, hlo h3, Option.getD_some, expectedSize_toNat, le16_toNat]

/-! ### The receive of one byte as a function of the state -/

/-- The bytes that stand in FB[0 .. BUF_LEN). -/
def receivedBytes (s : State) : List Byte :=
  (List.range s.bufLen.toNat).map fun i => (Memory.get s.fb i).getD 0

@[simp] theorem receivedBytes_length (s : State) : (receivedBytes s).length = s.bufLen.toNat := by
  simp [receivedBytes]

theorem ReceivedOk.fbHolds {s : State} (h : ReceivedOk s) : FbHolds s (receivedBytes s) := by
  obtain ⟨hlisted, -⟩ := h
  intro i hi
  rw [receivedBytes_length] at hi
  obtain ⟨b, hb⟩ := Option.isSome_iff_exists.1 (hlisted i hi)
  simp [receivedBytes, hi, hb]

/-- The length bytes of a complete frame give its size (R76). -/
theorem ReceivedOk.length_receivedBytes {s : State} (h : ReceivedOk s) (hc : FrameComplete s) :
    byteAt (receivedBytes s) 2 + 256 * byteAt (receivedBytes s) 3 + 4 =
      (receivedBytes s).length := by
  obtain ⟨-, -, hsized⟩ := h
  obtain ⟨h4, hlen⟩ := hc
  have hbyte (i : Nat) (hi : i < s.bufLen.toNat) :
      byteAt (receivedBytes s) i = ((Memory.get s.fb i).getD 0).toNat := by
    simp [byteAt, receivedBytes, hi]
  rw [receivedBytes_length, hbyte 2 (by omega), hbyte 3 (by omega), ← listedLength, ← hsized h4,
    hlen]

/-- `rx_byte(b)` as a function: the checks of a complete frame read only listed bytes, so nothing is
drawn (R177, R178). -/
def received (b : Byte) (s : State) : State :=
  if FrameComplete (storeByte b s) then
    finishExpected (receivedBytes (storeByte b s)) (storeByte b s)
  else storeByte b s

theorem ReadyToReceive.rxByte_received {s : State} (b : Byte) (h : ReadyToReceive s) :
    rxByte b s = .ok (received b s) := by
  have hrec := h.receivedOk_storeByte b
  rw [h.rxByte_eq, received]
  split
  case isTrue hc =>
    obtain ⟨h4, hlen⟩ := hc
    have hlength := receivedBytes_length (storeByte b s)
    exact finishIsTheCheckOfTheReceivedBytes _ _ (by omega)
      (by rw [hlength, hlen]; exact hrec.frameLen_le) (by rw [hlength, hlen]) hrec.fbHolds
  case isFalse => rfl

/-- What a byte received in RX can do: RX goes on, or the frame is complete and its checks end the
TRANSACT. -/
theorem ReadyToReceive.received_cases {s : State} (b : Byte) (h : ReadyToReceive s) :
    (received b s = storeByte b s ∧ ReadyToReceive (storeByte b s)) ∨
      (FrameComplete (storeByte b s) ∧
        received b s = finishExpected (receivedBytes (storeByte b s)) (storeByte b s)) := by
  by_cases hc : FrameComplete (storeByte b s)
  · exact .inr ⟨hc, if_pos hc⟩
  · exact .inl ⟨if_neg hc, h.ready_storeByte hc⟩

/-- In RX after a byte, the next one can be received. -/
theorem ReadyToReceive.received_ready {s : State} {b : Byte} (h : ReadyToReceive s)
    (hp : (received b s).phase = .rx) :
    received b s = storeByte b s ∧ ReadyToReceive (received b s) := by
  rcases h.received_cases b with ⟨hstored, hready⟩ | ⟨-, hended⟩
  · exact ⟨hstored, hstored ▸ hready⟩
  · obtain ⟨hidle, -⟩ := finishExpected_ended (receivedBytes (storeByte b s)) (storeByte b s)
    rw [hended, hidle] at hp
    cases hp

/-! ### The poll's loop (R176) -/

/-- The state in which T.rx holds `l`. -/
def withRx (l : List Byte) (s : State) : State :=
  { s with transport := { s.transport with rx := l } }

/-- In RX the loop takes the head off T.rx, receives it and goes on with the rest. -/
theorem ReadyToReceive.rxDrain_cons {s : State} (b : Byte) (l : List Byte) (h : ReadyToReceive s)
    (hp : s.phase = .rx) : rxDrain (b :: l) s = rxDrain l (received b (withRx l s)) := by
  have htaken : ReadyToReceive (withRx l s) := h
  exact Machine.rxDrain_cons hp (htaken.rxByte_received b)

/-- The loop over what is left in T.rx is a poll's while the phase is RX, and ends otherwise. -/
theorem rxDrain_rest {u : State} {rest : List Byte}
    (h : u.phase = .rx → u.transport.rx = rest ∧ u.idlePolls = 0) :
    toOutcome (rxDrain rest u) =
      if u.phase = .rx ∧ u.transport.rx ≠ [] then act .pollTick u else .next u := by
  by_cases hp : u.phase = .rx
  · obtain ⟨rfl, hpolls⟩ := h hp
    by_cases hq : u.transport.rx = []
    · rw [if_neg fun hc => hc.2 hq, hq]
      rfl
    · rw [if_pos ⟨hp, hq⟩, act_pollTick, pollTickStep_rx hp, if_neg hq, ← hpolls]
  · rw [if_neg fun hc => hp hc.1, rxDrain_stop hp, toOutcome]

/-- Settles O43: in RX the byte received left the rest in T.rx and IDLE_POLLS at 0. -/
theorem pollReceivesByteByByteWhileInRx : Obligations.PollReceivesByteByByteWhileInRx := by
  unfold Obligations.PollReceivesByteByByteWhileInRx
  intro s b rest hs hp hq
  have hready : ReadyToReceive (withRx rest { s with idlePolls := 0 }) := hs.readyToReceive hp
  have hpoll :
      pollTickStep s = rxDrain rest (received b (withRx rest { s with idlePolls := 0 })) := by
    rw [pollTickStep_rx hp, hq, if_neg (List.cons_ne_nil b rest)]
    exact ReadyToReceive.rxDrain_cons (s := { s with idlePolls := 0 }) b rest hready hp
  refine ⟨_, hready.rxByte_received b, ?_⟩
  rw [act_pollTick, hpoll]
  refine rxDrain_rest fun hrx => ?_
  obtain ⟨hstored, -⟩ := hready.received_ready hrx
  rw [hstored]
  exact ⟨rfl, rfl⟩

end Sys2Proof.Machine
end

section
/-! PROOFS. A whole poll in the RX phase (43_reassembler.md R176, R181, R186): what its loop can do,
the state a success leaves, and that the request has no part in it. -/

namespace Sys2Proof.Machine

/-! ### What the loop over T.rx can do -/

/-- The outcome of receiving `l` in RX: every byte is received and RX goes on, or one of them
completes the frame, whose checks end the TRANSACT and leave the rest in T.rx. -/
inductive ReceiveOutcome (s : State) (l : List Byte) (t : State) : Prop
  /-- RX goes on with T.rx empty. -/
  | waiting (m : Memory) (n fl : BitVec 17)
      (ht : t = withRx [] { s with fb := m, bufLen := n, frameLen := fl })
      (hready : ReadyToReceive t) (hlen : n.toNat = s.bufLen.toNat + l.length)
  /-- The checks have run on the complete frame. -/
  | ended (u : State) (m : Memory) (n fl : BitVec 17) (rest : List Byte)
      (hu : u = withRx rest { s with fb := m, bufLen := n, frameLen := fl })
      (hrec : ReceivedOk u) (hc : FrameComplete u) (ht : t = finishExpected (receivedBytes u) u)

/-- A byte that leaves the frame incomplete, and then the rest. -/
theorem ReceiveOutcome.cons {s t : State} {b : Byte} {l : List Byte} (h : ReadyToReceive s)
    (ho : ReceiveOutcome (storeByte b s) l t) : ReceiveOutcome s (b :: l) t := by
  have hsucc : (storeByte b s).bufLen.toNat = s.bufLen.toNat + 1 := h.bufLen_succ
  cases ho with
  | waiting m n fl ht hready hlen =>
    exact .waiting m n fl ht hready (by rw [hlen, hsucc, List.length_cons]; omega)
  | ended u m n fl rest hu hrec hc ht => exact .ended u m n fl rest hu hrec hc ht

theorem ReadyToReceive.rxDrain_outcome {l : List Byte} {s : State} (h : ReadyToReceive s)
    (hp : s.phase = .rx) : ∃ t, rxDrain l (withRx l s) = .ok t ∧ ReceiveOutcome s l t := by
  induction l generalizing s with
  | nil => exact ⟨withRx [] s, rfl, .waiting s.fb s.bufLen s.frameLen rfl h rfl⟩
  | cons b l ih =>
    have hbyte : rxDrain (b :: l) (withRx (b :: l) s) = rxDrain l (received b (withRx l s)) :=
      ReadyToReceive.rxDrain_cons (s := withRx (b :: l) s) b l h hp
    have htaken : ReadyToReceive (withRx l s) := h
    rw [hbyte]
    rcases htaken.received_cases b with ⟨hstored, hready⟩ | ⟨hc, hended⟩
    · obtain ⟨t, hrest, ho⟩ := ih (s := storeByte b s) hready hp
      exact ⟨t, by rw [hstored]; exact hrest, .cons h ho⟩
    · obtain ⟨hidle, -⟩ := finishExpected_ended (receivedBytes (storeByte b (withRx l s)))
        (storeByte b (withRx l s))
      refine ⟨_, rxDrain_stop (by rw [hended, hidle]; decide), ?_⟩
      exact .ended _ _ _ _ l rfl (htaken.receivedOk_storeByte b) hc hended

/-- A poll in RX that finds bytes clears the count of idle polls and receives them. -/
theorem Inv.pollTickStep_receives {s : State} (hs : Inv s) (hp : s.phase = .rx)
    (hq : s.transport.rx ≠ []) :
    ∃ t, pollTickStep s = .ok t ∧ ReceiveOutcome { s with idlePolls := 0 } s.transport.rx t := by
  have hready : ReadyToReceive { s with idlePolls := 0 } := hs.readyToReceive hp
  rw [pollTickStep_rx hp, if_neg hq]
  exact hready.rxDrain_outcome hp

/-! ### Success (R181) -/

/-- A poll that leaves VALID 1 has received bytes: without any it leaves VALID as it was. -/
theorem Inv.receives_of_valid {s t : State} (hs : Inv s) (hp : s.phase = .rx)
    (h : pollTickStep s = .ok t) (hvalid : t.status.valid = true) :
    ReceiveOutcome { s with idlePolls := 0 } s.transport.rx t := by
  by_cases hq : s.transport.rx = []
  · cases (pollTickStep_noProgress (.inr ⟨hp, hq⟩)).symm.trans h
    obtain ⟨-, -, -, hclear, -⟩ := hs.busy_status (by simp [hp])
    rw [idlePoll_valid, hclear] at hvalid
    cases hvalid
  · obtain ⟨t', h', ho⟩ := hs.pollTickStep_receives hp hq
    cases h'.symm.trans h
    exact ho

/-- Settles O46: the poll ended in the checks of the received bytes, which VALID says have all
passed. -/
theorem successClearsTheTransportAndLeavesTheFrame :
    Obligations.SuccessClearsTheTransportAndLeavesTheFrame := by
  unfold Obligations.SuccessClearsTheTransportAndLeavesTheFrame
  intro s t hs hp h hvalid
  obtain ⟨-, -, -, hclear, -⟩ := hs.busy_status (by simp [hp])
  cases hs.receives_of_valid hp (toOutcome_next h) hvalid with
  | waiting m n fl ht =>
    rw [ht] at hvalid
    exact (Bool.false_ne_true (hclear.symm.trans hvalid)).elim
  | ended u m n fl rest hu hrec hc ht =>
    have hbefore : u.status.valid = false := by rw [hu]; exact hclear
    obtain ⟨⟨hhead0, hhead1⟩, hL, htrailer, hsuccess⟩ := finishExpected_valid hbefore (ht ▸ hvalid)
    have hsize := hrec.length_receivedBytes hc
    have hlength := receivedBytes_length u
    obtain ⟨h4, hlen⟩ := hc
    have hcut : (receivedBytes u).length - 4 + 2 = (receivedBytes u).length - 2 := by omega
    have hlast : (receivedBytes u).length - 4 + 3 = (receivedBytes u).length - 1 := by omega
    rw [hcut, hlast] at htrailer
    have hcrc : (latchResponse (receivedBytes u) u).crc =
        checksum ((receivedBytes u).take ((receivedBytes u).length - 2)) :=
      congrArg (fun n => checksum ((receivedBytes u).take n)) hcut
    rw [ht, hsuccess]
    refine ⟨rfl, rfl, rfl, rfl, ?_, rfl, ?_, hlen, receivedBytes u, hlength, by omega, hrec.fbHolds,
      hhead0, hhead1, hsize, hcrc, ?_⟩
    · rw [succeed_transport, hu]
      rfl
    · rw [succeed_idlePolls, hu]
      rfl
    · rw [succeed_crc, hcrc, htrailer]

/-! ### The request has no part in the response (R186) -/

/-- The state with another request in OPCODE, ADDRESS and ARG. -/
def withRequest (op : BitVec 8) (ad : BitVec 16) (arg : List Byte) (s : State) : State :=
  { s with opcode := op, address := ad, arg := arg }

section
variable (op : BitVec 8) (ad : BitVec 16) (arg : List Byte)

theorem finishExpected_withRequest (f : List Byte) (s : State) :
    finishExpected f (withRequest op ad arg s) = withRequest op ad arg (finishExpected f s) := by
  rw [finishExpected_eq, finishExpected_eq]
  simp only [apply_ite (withRequest op ad arg)]
  rfl

theorem received_withRequest (b : Byte) (s : State) :
    received b (withRequest op ad arg s) = withRequest op ad arg (received b s) := by
  unfold received
  rw [apply_ite (withRequest op ad arg), ← finishExpected_withRequest]
  rfl

theorem idlePoll_withRequest (s : State) :
    idlePoll (withRequest op ad arg s) = withRequest op ad arg (idlePoll s) := by
  unfold idlePoll
  rw [apply_ite (withRequest op ad arg)]
  rfl

theorem rxDrain_withRequest {l : List Byte} {s : State} (h : s.phase = .rx → ReadyToReceive s) :
    rxDrain l (withRequest op ad arg s) = (rxDrain l s).map (withRequest op ad arg) := by
  induction l generalizing s with
  | nil => rfl
  | cons b l ih =>
    by_cases hp : s.phase = .rx
    · have htaken : ReadyToReceive (withRx l s) := h hp
      have hother : ReadyToReceive (withRequest op ad arg s) := h hp
      rw [(h hp).rxDrain_cons b l hp, hother.rxDrain_cons b l hp,
        ← ih fun hrx => (htaken.received_ready hrx).2, ← received_withRequest]
      rfl
    · rw [rxDrain_stop hp, rxDrain_stop (s := withRequest op ad arg s) hp]
      rfl

theorem Inv.pollTickStep_withRequest {s : State} (hs : Inv s) (hp : s.phase = .rx) :
    pollTickStep (withRequest op ad arg s) = (pollTickStep s).map (withRequest op ad arg) := by
  rw [pollTickStep_rx hp, pollTickStep_rx (s := withRequest op ad arg s) hp]
  by_cases hq : s.transport.rx = []
  · rw [if_pos hq, if_pos (show (withRequest op ad arg s).transport.rx = [] from hq),
      idlePoll_withRequest]
    rfl
  · rw [if_neg hq, if_neg (show (withRequest op ad arg s).transport.rx ≠ [] from hq)]
    exact rxDrain_withRequest op ad arg (s := { s with idlePolls := 0 })
      fun _ => hs.readyToReceive hp

end

/-- Settles O52: the poll commutes with the change of the request. -/
theorem responseIsNotMatchedToTheRequest : Obligations.ResponseIsNotMatchedToTheRequest := by
  unfold Obligations.ResponseIsNotMatchedToTheRequest
  intro s t op ad arg hs hp h
  have hpoll := hs.pollTickStep_withRequest op ad arg hp
  have hnext : pollTickStep s = .ok t := toOutcome_next h
  rw [hnext] at hpoll
  exact congrArg toOutcome hpoll

end Sys2Proof.Machine
end

section
/-! PROOFS. Chunking independence (43_reassembler.md R185). A poll receives the bytes of T.rx one
after the other, so what a schedule of arrivals and polls leaves is a fold over the bytes it brings,
whatever their division among the polls. -/

namespace Sys2Proof.Machine

/-! ### The engine as a fold over the received bytes -/

/-- The engine's state without the two things that depend on the division into chunks: the transport
and the count of idle polls. -/
def detached (s : State) : State :=
  { s with transport := { rx := [], txq := [], wire := [] }, idlePolls := 0 }

/-- The receive of a byte in RX; in another phase a byte stays in T.rx (R176). -/
def receiveNext (s : State) (b : Byte) : State := if s.phase = .rx then received b s else s

/-- The receive of bytes one after the other. -/
def receiveAll (l : List Byte) (s : State) : State := l.foldl receiveNext s

theorem receiveAll_cons {b : Byte} {l : List Byte} {s : State} (hp : s.phase = .rx) :
    receiveAll (b :: l) s = receiveAll l (received b s) :=
  congrArg (receiveAll l) (if_pos hp)

theorem receiveAll_append (l l' : List Byte) (s : State) :
    receiveAll (l ++ l') s = receiveAll l' (receiveAll l s) := List.foldl_append

theorem receiveAll_of_ne_rx {l : List Byte} {s : State} (hp : s.phase ≠ .rx) :
    receiveAll l s = s := by
  induction l with
  | nil => rfl
  | cons b l ih => exact (congrArg (receiveAll l) (if_neg hp)).trans ih

/-- The checks of a frame read neither the transport nor the count. -/
theorem finishExpected_detached (f : List Byte) (s : State) :
    finishExpected f (detached s) = detached (finishExpected f s) := by
  rw [finishExpected_eq, finishExpected_eq]
  simp only [apply_ite detached]
  rfl

theorem received_detached (b : Byte) (s : State) :
    received b (detached s) = detached (received b s) := by
  unfold received
  rw [apply_ite detached, ← finishExpected_detached]
  rfl

/-- The loop over T.rx is the fold, up to what `detached` leaves out. -/
theorem detached_rxDrain {l : List Byte} {s t : State} (h : s.phase = .rx → ReadyToReceive s)
    (e : rxDrain l s = .ok t) : detached t = receiveAll l (detached s) := by
  induction l generalizing s with
  | nil => cases e; rfl
  | cons b l ih =>
    by_cases hp : s.phase = .rx
    · have htaken : ReadyToReceive (withRx l s) := h hp
      rw [(h hp).rxDrain_cons b l hp] at e
      rw [ih (fun hrx => (htaken.received_ready hrx).2) e, ← received_detached,
        receiveAll_cons (s := detached s) hp]
      rfl
    · cases (rxDrain_stop hp).symm.trans e
      exact (receiveAll_of_ne_rx (s := detached t) hp).symm

/-! ### Schedules of arrivals and polls -/

/-- What the engine becomes when it has received the bytes that T.rx holds now. -/
def pending (s : State) : State := receiveAll s.transport.rx (detached s)

/-- Outside RX nothing is pending. -/
theorem pending_of_ne_rx {s : State} (hp : s.phase ≠ .rx) : pending s = detached s :=
  receiveAll_of_ne_rx (s := detached s) hp

theorem pending_arrive (bs : List Byte) (s : State) :
    pending (arrive bs s) = receiveAll bs (pending s) := receiveAll_append ..

/-- The states that a schedule of arrivals and polls goes through from RX on, if no poll times out:
the engine receives, or the receive has ended in a poll that had cleared the count of idle polls. -/
def RxRun (s : State) : Prop := Inv s ∧ s.phase ≠ .tx ∧ (s.phase = .idle → s.idlePolls = 0)

theorem RxRun.phase_idle {s : State} (hs : RxRun s) (hp : s.phase ≠ .rx) : s.phase = .idle := by
  obtain ⟨-, htx, -⟩ := hs
  cases hphase : s.phase with
  | idle => rfl
  | tx => exact absurd hphase htx
  | rx => exact absurd hphase hp

theorem idlePoll_cases (s : State) :
    (idlePoll s).status.errCode = .timeout ∨
      idlePoll s = { s with idlePolls := s.idlePolls + 1 } := by
  unfold idlePoll
  split
  · exact .inl rfl
  · exact .inr rfl

theorem ReceiveOutcome.phase_and_polls {s t : State} {l : List Byte} (h : ReceiveOutcome s l t)
    (hp : s.phase = .rx) :
    t.idlePolls = s.idlePolls ∧ (t.phase = .idle ∨ (t.phase = .rx ∧ t.transport.rx = [])) := by
  cases h with
  | waiting m n fl ht => exact ht ▸ ⟨rfl, .inr ⟨hp, rfl⟩⟩
  | ended u m n fl rest hu hrec hc ht =>
    obtain ⟨-, -, -, hpolls⟩ := finishExpected_frame (receivedBytes u) u
    refine ⟨?_, .inl ?_⟩
    · rw [ht, hpolls, hu]; rfl
    · exact ht ▸ (finishExpected_ended (receivedBytes u) u).1

/-- A poll in RX changes nothing that is pending, unless it times out. -/
theorem RxRun.pollTick_rx {s t : State} (hs : RxRun s) (hp : s.phase = .rx)
    (h : pollTickStep s = .ok t) (hcode : t.status.errCode ≠ .timeout) :
    t.phase ≠ .tx ∧ (t.phase = .idle → t.idlePolls = 0) ∧ pending t = pending s := by
  obtain ⟨hinv, -, -⟩ := hs
  by_cases hq : s.transport.rx = []
  · cases (pollTickStep_noProgress (.inr ⟨hp, hq⟩)).symm.trans h
    have hcounted := (idlePoll_cases s).resolve_left hcode
    rw [hcounted]
    exact ⟨by simp [hp], by simp [hp], rfl⟩
  · obtain ⟨t', h', ho⟩ := hinv.pollTickStep_receives hp hq
    cases h'.symm.trans h
    obtain ⟨hpolls, hphase⟩ := ho.phase_and_polls hp
    have hloop : rxDrain s.transport.rx { s with idlePolls := 0 } = .ok t := by
      rw [← h, pollTickStep_rx hp, if_neg hq]
    have hfold : detached t = pending s :=
      detached_rxDrain (s := { s with idlePolls := 0 }) (fun _ => hinv.readyToReceive hp) hloop
    rcases hphase with hidle | ⟨hrx, hempty⟩
    · exact ⟨by simp [hidle], fun _ => hpolls, (pending_of_ne_rx (by simp [hidle])).trans hfold⟩
    · exact ⟨by simp [hrx], by simp [hrx], by rw [← hfold, pending, hempty]; rfl⟩

/-- An arrival or a poll. -/
def ArrivesOrPolls (e : Event) : Prop := e = .pollTick ∨ ∃ bs, e = .arrive bs

/-- A step of such a schedule that does not time out receives nothing but what arrives. -/
theorem RxRun.act {e : Event} {s t : State} (hs : RxRun s) (he : ArrivesOrPolls e)
    (h : act e s = .next t) (hcode : t.status.errCode ≠ .timeout) :
    RxRun t ∧ pending t = receiveAll e.arriving (pending s) := by
  have ⟨hbefore, htx, hpolls⟩ := hs
  have hinv : Inv t := hbefore.act h
  rcases he with rfl | ⟨bs, rfl⟩
  · have hpoll := toOutcome_next h
    by_cases hp : s.phase = .rx
    · obtain ⟨htx', hpolls', hpending⟩ := hs.pollTick_rx hp hpoll hcode
      exact ⟨⟨hinv, htx', hpolls'⟩, hpending⟩
    · cases (pollTickStep_idle (hs.phase_idle hp)).symm.trans hpoll
      exact ⟨hs, rfl⟩
  · cases h
    exact ⟨⟨hinv, htx, hpolls⟩, pending_arrive bs s⟩

/-- A schedule of arrivals and polls leaves an idle engine as it is (R184). -/
theorem runEvents_idle {E : List Event} {s t : State} (hE : ∀ e ∈ E, ArrivesOrPolls e)
    (hp : s.phase = .idle) (h : runEvents E s = .next t) : t.status = s.status := by
  induction E generalizing s with
  | nil => cases h; rfl
  | cons e E ih =>
    obtain ⟨u, hu, hrest⟩ := runEvents_cons_next h
    have hE' : ∀ e ∈ E, ArrivesOrPolls e := fun x hx => hE x (List.mem_cons_of_mem e hx)
    rcases hE e List.mem_cons_self with rfl | ⟨bs, rfl⟩
    · cases (pollTickStep_idle hp).symm.trans (toOutcome_next hu)
      exact ih hE' hp hrest
    · cases hu
      exact ih (s := arrive bs s) hE' hp hrest

/-- While BUSY there is no error code, so a state with one is idle. -/
theorem Inv.idle_of_errCode {s : State} (hs : Inv s) (h : s.status.errCode ≠ .noError) :
    s.phase = .idle := by
  by_contra hp
  obtain ⟨-, -, -, -, hcode, -⟩ := hs.busy_status hp
  exact h hcode

/-- Over a schedule that does not end in a timeout, what is pending takes in the arriving bytes. -/
theorem RxRun.runEvents {E : List Event} {s t : State} (hs : RxRun s)
    (hE : ∀ e ∈ E, ArrivesOrPolls e) (h : runEvents E s = .next t)
    (hcode : t.status.errCode ≠ .timeout) :
    RxRun t ∧ pending t = receiveAll (E.flatMap Event.arriving) (pending s) := by
  induction E generalizing s with
  | nil => cases h; exact ⟨hs, rfl⟩
  | cons e E ih =>
    have ⟨hinv, _, _⟩ := hs
    obtain ⟨u, hu, hrest⟩ := runEvents_cons_next h
    have hE' : ∀ e ∈ E, ArrivesOrPolls e := fun x hx => hE x (List.mem_cons_of_mem e hx)
    have hcode' : u.status.errCode ≠ .timeout := by
      intro htimeout
      have hidle := (hinv.act hu).idle_of_errCode (by rw [htimeout]; decide)
      exact hcode ((congrArg Status.errCode (runEvents_idle hE' hidle hrest)).trans htimeout)
    obtain ⟨hrun, hstep⟩ := hs.act (hE e List.mem_cons_self) hu hcode'
    obtain ⟨hend, hpending⟩ := ih hrun hE' hrest
    rw [List.flatMap_cons, receiveAll_append, ← hstep]
    exact ⟨hend, hpending⟩

/-! ### What the fold leaves in FB -/

/-- What stands in FB after the bytes `l` since the start of RX: in RX all of them, and after the
checks the frame, which is the first FRAME_LEN of them. -/
def HoldsStream (l : List Byte) (s : State) : Prop :=
  (∀ i, i < s.bufLen.toNat → Memory.get s.fb i = l[i]?) ∧ s.bufLen.toNat ≤ l.length ∧
    (s.phase = .rx → ReadyToReceive s ∧ s.bufLen.toNat = l.length) ∧
    (s.phase = .idle → s.bufLen = s.frameLen)

theorem HoldsStream.storeByte {l : List Byte} {s : State} (b : Byte)
    (h : HoldsStream l s) (hp : s.phase = .rx) :
    (storeByte b s).bufLen.toNat = (l ++ [b]).length ∧
      ∀ i, i < (storeByte b s).bufLen.toNat → Memory.get (storeByte b s).fb i = (l ++ [b])[i]? := by
  obtain ⟨hget, -, hrx, -⟩ := h
  obtain ⟨hready, hlen⟩ := hrx hp
  have hsucc : (Machine.storeByte b s).bufLen.toNat = s.bufLen.toNat + 1 := hready.bufLen_succ
  refine ⟨by simp [hsucc, hlen], fun i hi => ?_⟩
  rw [storeByte_get]
  split
  case isTrue he => rw [he, hlen, List.getElem?_concat_length]
  case isFalse hne => rw [hget i (by omega), List.getElem?_append_left (by omega)]

theorem HoldsStream.receiveNext {l : List Byte} {s : State} (b : Byte) (h : HoldsStream l s) :
    HoldsStream (l ++ [b]) (receiveNext s b) := by
  by_cases hp : s.phase = .rx
  · obtain ⟨hlen, hget⟩ := h.storeByte b hp
    obtain ⟨-, -, hrx, -⟩ := h
    obtain ⟨hready, -⟩ := hrx hp
    rw [Machine.receiveNext, if_pos hp]
    rcases hready.received_cases b with ⟨hstored, hnext⟩ | ⟨⟨-, hc⟩, hended⟩
    · rw [hstored]
      exact ⟨hget, hlen.le, fun _ => ⟨hnext, hlen⟩,
        fun hidle => absurd (hp.symm.trans hidle) (by decide)⟩
    · obtain ⟨hidle, -⟩ :=
        finishExpected_ended (receivedBytes (Machine.storeByte b s)) (Machine.storeByte b s)
      obtain ⟨hfb, hbuf, hframe, -⟩ :=
        finishExpected_frame (receivedBytes (Machine.storeByte b s)) (Machine.storeByte b s)
      rw [hended, HoldsStream, hfb, hbuf, hframe, hidle]
      exact ⟨hget, hlen.le, nofun, fun _ => hc⟩
  · obtain ⟨hget, hle, -, hidle⟩ := h
    rw [Machine.receiveNext, if_neg hp]
    refine ⟨fun i hi => ?_, ?_, fun hrx => absurd hrx hp, hidle⟩
    · rw [hget i hi, List.getElem?_append_left (by omega)]
    · rw [List.length_append]; omega

theorem HoldsStream.receiveAll {l l' : List Byte} {s : State} (h : HoldsStream l s) :
    HoldsStream (l ++ l') (receiveAll l' s) := by
  induction l' generalizing l s with
  | nil => rwa [List.append_nil]
  | cons b l' ih =>
    have hrest := ih (h.receiveNext b)
    rwa [List.append_assoc] at hrest

/-- At the start of RX no byte has come. -/
theorem HoldsStream.nil {s : State} (h : ReadyToReceive s) (hp : s.phase = .rx)
    (hzero : s.bufLen = 0) : HoldsStream [] s := by
  have hlen : s.bufLen.toNat = 0 := congrArg BitVec.toNat hzero
  exact ⟨fun i hi => absurd hi (by omega), hlen.le, fun _ => ⟨h, hlen⟩,
    fun hidle => absurd (hp.symm.trans hidle) (by decide)⟩

/-! ### The statement -/

theorem runEvents_append {E E' : List Event} {s u : State} (h : runEvents E s = .next u) :
    runEvents (E ++ E') s = runEvents E' u := by
  induction E generalizing s with
  | nil => cases h; rfl
  | cons e E ih =>
    obtain ⟨v, hv, hrest⟩ := runEvents_cons_next h
    rw [List.cons_append, runEvents_cons hv, ih hrest]

theorem Inv.runEvents {E : List Event} {s t : State} (hs : Inv s) (h : runEvents E s = .next t) :
    Inv t := by
  induction E generalizing s with
  | nil => cases h; exact hs
  | cons e E ih =>
    obtain ⟨u, hu, hrest⟩ := runEvents_cons_next h
    exact ih (hs.act hu) hrest

/-- With no idle poll counted, `detached` leaves out the transport alone. -/
theorem eq_of_detached_eq {s t : State} (h : detached t = detached s) (hs : s.idlePolls = 0)
    (ht : t.idlePolls = 0) : t = { s with transport := t.transport } := by
  have hrestore (u : State) (x : Transport) (hu : u.idlePolls = 0) :
      { detached u with transport := x } = { u with transport := x } := by
    rw [detached, ← hu]
  calc t = { detached t with transport := t.transport } := (hrestore t _ ht).symm
    _ = { detached s with transport := t.transport } := by rw [h]
    _ = { s with transport := t.transport } := hrestore s _ hs

/-- A schedule that ends the TRANSACT without a timeout leaves the fold over the bytes it brings. -/
theorem completed_eq_fold {E : List Event} {s t : State} (hs : Inv s) (hp : s.phase = .rx)
    (hE : ∀ e ∈ E, ArrivesOrPolls e) (h : runEvents E s = .next t) (hidle : t.phase = .idle)
    (hcode : t.status.errCode ≠ .timeout) :
    t.idlePolls = 0 ∧
      detached t = receiveAll (s.transport.rx ++ E.flatMap Event.arriving) (detached s) := by
  have hrun : RxRun s := ⟨hs, by simp [hp], by simp [hp]⟩
  obtain ⟨⟨-, -, hpolls⟩, hpending⟩ := hrun.runEvents hE h hcode
  refine ⟨hpolls hidle, ?_⟩
  rw [← pending_of_ne_rx (by simp [hidle]), hpending, receiveAll_append, pending]

/-- The step that ends the TRANSACT in success is a poll, and clears T.rx (R181). -/
theorem transport_rx_of_success {e : Event} {u t : State} (hu : Inv u) (hp : u.phase = .rx)
    (he : ArrivesOrPolls e) (h : act e u = .next t) (hidle : t.phase = .idle)
    (hvalid : t.status.valid = true) : t.transport.rx = [] := by
  rcases he with rfl | ⟨bs, rfl⟩
  · obtain ⟨-, -, -, -, htransport, -⟩ :=
      successClearsTheTransportAndLeavesTheFrame u t hu hp h hvalid
    rw [htransport]
  · cases h
    exact absurd (hp.symm.trans hidle) (by decide)

/-- Settles O50: both schedules leave the fold over the same bytes, which says what FB holds. -/
theorem chunkingDoesNotChangeTheResponse : Obligations.ChunkingDoesNotChangeTheResponse := by
  unfold Obligations.ChunkingDoesNotChangeTheResponse
  intro s t₁ t₂ E₁ E₂ hs hp hzero hE hsame h₁ h₂ hidle₁ hidle₂ hcode₁ hcode₂
  have hE₁ : ∀ e ∈ E₁, ArrivesOrPolls e := fun e he => hE e (List.mem_append_left E₂ he)
  have hE₂ : ∀ e ∈ E₂, ArrivesOrPolls e := fun e he => hE e (List.mem_append_right E₁ he)
  obtain ⟨hpolls₁, hfold₁⟩ := completed_eq_fold hs hp hE₁ h₁ hidle₁ hcode₁
  obtain ⟨hpolls₂, hfold₂⟩ := completed_eq_fold hs hp hE₂ h₂ hidle₂ hcode₂
  have hstart : HoldsStream [] (detached s) := .nil (hs.readyToReceive hp) hp hzero
  have hstream : HoldsStream (s.transport.rx ++ E₁.flatMap Event.arriving) (detached t₁) :=
    hfold₁ ▸ hstart.receiveAll
  obtain ⟨hget, -, -, hlen⟩ := hstream
  refine ⟨eq_of_detached_eq ?_ hpolls₁ hpolls₂, hpolls₁, hlen hidle₁, hget, ?_⟩
  · rw [hfold₁, hfold₂, hsame]
  · rintro hvalid E e u rfl hu hrx
    rw [runEvents_append hu] at h₁
    obtain ⟨t, ht, hlast⟩ := runEvents_cons_next h₁
    cases hlast
    exact transport_rx_of_success (hs.runEvents hu) hrx (hE₁ e (by simp)) ht hidle₁ hvalid

end Sys2Proof.Machine
end

section
/-! PROOFS. Bounded completion (43_reassembler.md R188). While a TRANSACT runs every poll uses up
some of a number that no other step of the four agents raises. -/

namespace Sys2Proof.Machine

/-- How many bytes can still be transmitted and received before the TRANSACT ends: a request's bytes,
and a response's of at most 65539. -/
def bytesLeft (s : State) : Nat :=
  match s.phase with
  | .idle => 0
  | .tx => s.txLen - s.txIdx + 65539
  | .rx => 65539 - s.bufLen.toNat

/-- How many polls a running TRANSACT can still take: a whole threshold of idle polls for each byte,
and what is left of the threshold now. -/
def pollsLeft (s : State) : Nat := bytesLeft s * thr s + (thr s - s.idlePolls.toNat)

theorem bytesLeft_tx {s : State} (h : s.phase = .tx) : bytesLeft s = s.txLen - s.txIdx + 65539 := by
  rw [bytesLeft, h]

theorem bytesLeft_rx {s : State} (h : s.phase = .rx) : bytesLeft s = 65539 - s.bufLen.toNat := by
  rw [bytesLeft, h]

theorem bytesLeft_enterRx (s : State) : bytesLeft (enterRx s) = 65539 := rfl

theorem bytesLeft_queueByte {b : Byte} {s : State} (h : s.phase = .tx) :
    bytesLeft (queueByte b s) = s.txLen - (s.txIdx + 1) + 65539 := bytesLeft_tx h

theorem pollsLeft_drain (s : State) : pollsLeft (drain s) = pollsLeft s := by
  unfold drain
  split <;> rfl

theorem Inv.running_of_busy {s : State} (hs : Inv s) (hb : s.status.busy = true) :
    s.phase ≠ .idle := by
  obtain ⟨-, ⟨hbusy, -⟩, -⟩ := hs
  exact hbusy.1 hb

/-- While BUSY the count of idle polls is below the threshold (R47). -/
theorem Inv.idlePolls_lt_thr {s : State} (hs : Inv s) (hb : s.status.busy = true) :
    s.idlePolls.toNat < thr s := by
  obtain ⟨-, -, -, -, -, -, -, hpolls⟩ := hs
  exact hpolls hb

/-- The bound of R188 is more than what is left at any time. -/
theorem Inv.pollsLeft_le {s : State} (hs : Inv s) :
    pollsLeft s ≤ (s.txLen + 65541) * thr s := by
  have hbytes : bytesLeft s ≤ s.txLen + 65539 := by
    unfold bytesLeft
    split <;> omega
  calc pollsLeft s ≤ (s.txLen + 65539) * thr s + thr s :=
        Nat.add_le_add (Nat.mul_le_mul_right _ hbytes) (Nat.sub_le _ _)
    _ = (s.txLen + 65540) * thr s := (Nat.succ_mul _ _).symm
    _ ≤ (s.txLen + 65541) * thr s := Nat.mul_le_mul_right _ (by omega)

/-- A step that takes a byte gives back at most the idle polls counted so far, less than the
threshold that the byte stood for. -/
theorem pollsLeft_lt_of_byte {s t : State} (hthr : thr t = thr s)
    (hbytes : bytesLeft t + 1 ≤ bytesLeft s) (hpolls : s.idlePolls.toNat < thr s) :
    pollsLeft t + 1 ≤ pollsLeft s := by
  have hmul : (bytesLeft t + 1) * thr s ≤ bytesLeft s * thr s := Nat.mul_le_mul_right _ hbytes
  rw [Nat.succ_mul] at hmul
  rw [pollsLeft, pollsLeft, hthr]
  omega

/-- What a step does to a running TRANSACT, `n` being 1 for a poll and else 0: it ends it (R107), or
it goes on and at least `n` of the polls left are used up. -/
def RunsOn (n : Nat) (s t : State) : Prop :=
  (t.status.busy = false ∧ t.status.done = true) ∨
    (t.status.busy = true ∧ pollsLeft t + n ≤ pollsLeft s)

/-- A step that changes neither BUSY nor what `pollsLeft` reads. -/
theorem RunsOn.unchanged {s t : State} (hb : s.status.busy = true)
    (hbusy : t.status.busy = s.status.busy) (hleft : pollsLeft t = pollsLeft s) : RunsOn 0 s t :=
  .inr ⟨hbusy.trans hb, hleft.le⟩

section
variable {s : State} (hs : Inv s) (hb : s.status.busy = true)
include hs hb

/-- A poll without progress uses up one poll of the threshold, or ends the TRANSACT. -/
theorem idlePoll_runsOn : RunsOn 1 s (idlePoll s) := by
  have hcount := hs.idlePolls_succ (hs.running_of_busy hb)
  have hlt := hs.idlePolls_lt_thr hb
  unfold idlePoll
  split
  · exact .inl ⟨rfl, rfl⟩
  · refine .inr ⟨hb, ?_⟩
    have hleft : pollsLeft { s with idlePolls := s.idlePolls + 1 } =
        bytesLeft s * thr s + (thr s - (s.idlePolls + 1).toNat) := rfl
    rw [hleft, pollsLeft]
    omega

/-- A poll that finds bytes takes at least one of them. -/
theorem ReceiveOutcome.runsOn {t : State} {l : List Byte} (hp : s.phase = .rx) (hl : l ≠ [])
    (h : ReceiveOutcome { s with idlePolls := 0 } l t) : RunsOn 1 s t := by
  cases h with
  | waiting m n fl ht hready hlen =>
    have hpos := List.length_pos_of_ne_nil hl
    have hbuf : t.bufLen.toNat = s.bufLen.toNat + l.length := by rw [ht]; exact hlen
    have hphase : t.phase = .rx := by rw [ht]; exact hp
    have hlt := hready.bufLen_lt
    refine .inr ⟨by rw [ht]; exact hb, ?_⟩
    refine pollsLeft_lt_of_byte (by rw [ht]; rfl) ?_ (hs.idlePolls_lt_thr hb)
    rw [bytesLeft_rx hphase, bytesLeft_rx hp]
    omega
  | ended u m n fl rest hu hrec hc ht =>
    obtain ⟨-, hbusy, hdone⟩ := finishExpected_ended (receivedBytes u) u
    exact .inl (ht ▸ ⟨hbusy, hdone⟩)

theorem pollTickStep_runsOn : ∃ t, pollTickStep s = .ok t ∧ RunsOn 1 s t := by
  cases hp : s.phase with
  | idle => exact absurd hp (hs.running_of_busy hb)
  | tx => exact ⟨_, pollTickStep_noProgress (.inl hp), idlePoll_runsOn hs hb⟩
  | rx =>
    by_cases hq : s.transport.rx = []
    · exact ⟨_, pollTickStep_noProgress (.inr ⟨hp, hq⟩), idlePoll_runsOn hs hb⟩
    · obtain ⟨t, hpoll, ho⟩ := hs.pollTickStep_receives hp hq
      exact ⟨t, hpoll, ho.runsOn hs hb hp hq⟩

/-- An accepted byte of the request is one byte fewer to transmit (R174). -/
theorem txAcceptStep_runsOn : ∃ t, txAcceptStep s = .ok t ∧ RunsOn 0 s t := by
  by_cases hp : s.phase = .tx
  · have hpolls := hs.idlePolls_lt_thr hb
    obtain ⟨⟨-, -, -, -, -, -, hcap⟩, -, htx, -⟩ := hs
    obtain ⟨hidx, -⟩ := htx hp
    obtain ⟨b, d, hread, -⟩ := fbRead_total (i := s.txIdx) s (by rw [Config.fbCap]; omega)
    have haccept := txAcceptStep_of_read hp hread
    refine ⟨_, haccept, .inr ⟨(congrArg Status.busy (txAcceptStep_status haccept)).trans hb, ?_⟩⟩
    refine Nat.le_of_succ_le (pollsLeft_lt_of_byte ?_ ?_ hpolls)
    · split <;> rfl
    · rw [bytesLeft_tx hp]
      split
      · rw [bytesLeft_enterRx]
        omega
      · rw [bytesLeft_queueByte (s := { s with draws := d }) hp]
        dsimp only
        omega
  · exact ⟨s, txAcceptStep_of_ne_tx hp, .unchanged hb rfl rfl⟩

/-- Every step of an agent answers, and a poll uses up one of the polls left. -/
theorem act_runsOn {e : Event} (he : e.isAgent = true) :
    ∃ t, act e s = .next t ∧ RunsOn ([e].count .pollTick) s t := by
  have hhost (hhost : e.isHost = true) : ∃ t, act e s = .next t ∧ RunsOn 0 s t := by
    obtain ⟨v, af, rj, ht⟩ := hostCannotDisturbARunningTransact s e hhost hb
    exact ⟨_, ht, .unchanged hb rfl rfl⟩
  cases e with
  | op w =>
    cases w with
    | host w => exact hhost rfl
    | wire b =>
      rw [act_op, runOp_wire]
      rcases transmitOpcode_cases b s with ⟨-, -, haccept⟩ | hnone
      · obtain ⟨t, ht, hruns⟩ := txAcceptStep_runsOn hs hb
        exact ⟨t, by rw [haccept, ht, toOutcome], hruns⟩
      · exact ⟨s, by rw [hnone, toOutcome], .unchanged hb rfl rfl⟩
  | access a => exact hhost rfl
  | arrive bs => exact ⟨_, rfl, .unchanged hb rfl rfl⟩
  | drain =>
    exact ⟨_, rfl, .unchanged hb (congrArg Status.busy (drain_status s)) (pollsLeft_drain s)⟩
  | txAccept =>
    obtain ⟨t, ht, hruns⟩ := txAcceptStep_runsOn hs hb
    exact ⟨t, by rw [act_txAccept, ht, toOutcome], hruns⟩
  | pollTick =>
    obtain ⟨t, ht, hruns⟩ := pollTickStep_runsOn hs hb
    exact ⟨t, by rw [act_pollTick, ht, toOutcome], hruns⟩
  | ioFail after =>
    obtain ⟨-, hended⟩ := ioFailureEndsARunningTransact s after
    exact ⟨_, hended (hs.running_of_busy hb), .inl ⟨rfl, rfl⟩⟩
  | reset => cases he

end

/-- With at least as many polls in the schedule as are left, one of them ends the TRANSACT. -/
theorem completes_of_pollsLeft_le {E : List Event} {s : State} (hs : Inv s)
    (hb : s.status.busy = true) (hE : ∀ e ∈ E, e.isAgent = true)
    (hpolls : pollsLeft s ≤ E.count .pollTick) :
    ∃ k t, k ≤ E.length ∧ runEvents (E.take k) s = .next t ∧ t.status.busy = false ∧
      t.status.done = true := by
  induction E generalizing s with
  | nil =>
    have hleft : 0 < pollsLeft s :=
      Nat.add_pos_right _ (Nat.sub_pos_of_lt (hs.idlePolls_lt_thr hb))
    rw [List.count_nil] at hpolls
    omega
  | cons e E ih =>
    obtain ⟨u, hu, hruns⟩ := act_runsOn hs hb (hE e List.mem_cons_self)
    have hrun (k : Nat) : runEvents ((e :: E).take (k + 1)) s = runEvents (E.take k) u := by
      rw [List.take_succ_cons, runEvents_cons hu]
    rcases hruns with ⟨hidle, hdone⟩ | ⟨hbusy, hless⟩
    · exact ⟨1, u, Nat.succ_le_succ (Nat.zero_le _), hrun 0, hidle, hdone⟩
    · have hcount : (e :: E).count .pollTick = [e].count .pollTick + E.count .pollTick :=
        List.count_append (l₁ := [e])
      obtain ⟨k, t, hk, hrest, hend⟩ := ih (hs.act hu) hbusy
        (fun x hx => hE x (List.mem_cons_of_mem e hx)) (by omega)
      exact ⟨k + 1, t, Nat.succ_le_succ hk, (hrun k).trans hrest, hend⟩

/-- Settles O51: what is left at the start is within the bound. -/
theorem transactCompletesWithinThePollBound :
    Obligations.TransactCompletesWithinThePollBound := by
  unfold Obligations.TransactCompletesWithinThePollBound
  intro s E hs hb hE hpolls
  exact completes_of_pollsLeft_le hs hb hE (hs.pollsLeft_le.trans hpolls)

end Sys2Proof.Machine
end

section
/-! PROOFS. No step stops the machine (60_exceptions.md R201): from a state that meets the invariant no
step forms an index of FB that does not exist, so every event answers a next state. -/

namespace Sys2Proof.Machine

theorem toOutcome_answers {r : Except Fault State} (h : ∃ t, r = .ok t) :
    ∃ t, toOutcome r = .next t := by
  obtain ⟨t, rfl⟩ := h
  exact ⟨t, rfl⟩

/-! ### Register accesses -/

theorem readBufData_answers {s : State} (h : s.bufPtr.toNat ≤ 65539) :
    ∃ t, readBufData s = .ok t := by
  rcases h.lt_or_eq with hlt | hend
  · obtain ⟨v, n, hread, -⟩ := readBufData_inRange hlt
    exact ⟨_, hread⟩
  · exact ⟨_, readBufData_atEnd hend⟩

theorem writeBufData_answers (data : Word) {s : State} (h : s.bufPtr.toNat ≤ 65539) :
    ∃ t, writeBufData data s = .ok t := by
  rcases h.lt_or_eq with hlt | hend
  · exact ⟨_, writeBufData_inRange data hlt⟩
  · exact ⟨_, writeBufData_atEnd data hend⟩

theorem appendArg_answers (data : Word) (s : State) : ∃ t, appendArg data s = .ok t := by
  by_cases hfull : argCount s = Config.argCap
  · exact ⟨_, appendArg_full data hfull⟩
  · exact ⟨_, appendArg_room data hfull⟩

/-- While BUSY = 0 only BUF_DATA indexes FB, and BUF_PTR is at most FB's end (R117, R130). -/
theorem exec_answers_of_idle {i : Instr} {s : State} (hptr : s.bufPtr.toNat ≤ 65539)
    (hidle : s.status.busy = false) (hi : accessesRegister (.ok i) = true) :
    ∃ t, exec i s = .next t := by
  cases i with
  | rdId | rdCtrl | rdStatus | rdOpcode | rdAddress | rdArgCount | rdBufPtr | rdBufLen | rdCrc
  | rdTimeoutPolls | rdIdlePolls | rdFrameLen | rdRxOpcode | rdRxAddr | rdStatusIndex =>
    exact ⟨_, rfl⟩
  | rdBufData =>
    rw [exec, execRdBufData_idle hidle]
    exact toOutcome_answers (readBufData_answers hptr)
  | wrBufData data =>
    rw [exec, execWrBufData, lockedWrite_idle hidle]
    exact toOutcome_answers (writeBufData_answers data hptr)
  | wrArgData data =>
    rw [exec, execWrArgData, lockedWrite_idle hidle]
    exact toOutcome_answers (appendArg_answers data s)
  | wrCtrl | wrOpcode | wrAddress | wrBufPtr | wrBufLen | wrCrcData | wrTimeoutPolls
  | wrStatusIndex =>
    simp only [exec, execWrCtrl, execWrOpcode, execWrAddress, execWrBufPtr, execWrBufLen,
      execWrCrcData, execWrTimeoutPolls, execWrStatusIndex]
    exact ⟨_, lockedWrite_stores hidle⟩
  | crcInit | crcBuf | argClear | encode | decode | transact | flush | wireRead | wireWrite =>
    cases hi

/-! ### Commands -/

theorem encodeBody_answers {s : State} (harg : argCount s ≤ 65530) :
    ∃ t, encodeBody s = .ok t := by
  by_cases hop : s.opcode = Config.opRead ∨ s.opcode = Config.opWrite
  · obtain ⟨m, hemit, -⟩ := emitRequest_total { s with frameLen := 0 } harg
    exact ⟨_, (encodeBody_wireOpcode hop).trans hemit⟩
  · exact ⟨_, encodeBody_badOpcode hop⟩

/-- An accepted command ends in a next state: CRC_BUF and DECODE read FB below BUF_LEN, and a request
fits in FB. -/
theorem Command.answers {d : Except Reject Instr} {body : State → Except Fault State} {s : State}
    (h : Command d body) (hs : BoundsOk s) : ∃ t, body (accept s) = .ok t := by
  obtain ⟨-, harg, -, hlen, -⟩ := hs
  cases h with
  | crcInit | argClear | transact | flush | illegal => exact ⟨_, rfl⟩
  | crcBuf =>
    obtain ⟨f, n, hread, -⟩ :=
      fbReadRange_total s.bufLen.toNat 0 (accept s) (by rwa [Nat.zero_add])
    exact ⟨_, crcBufBody_of_read hread⟩
  | encode => exact encodeBody_answers (s := accept s) harg
  | decode =>
    obtain ⟨fl, op, ad, c, n, t, ht, -⟩ := decodeBody_total (accept s) hlen
    exact ⟨t, ht⟩

/-! ### Host accesses -/

theorem runOp_host_answers_of_idle (w : HostWord) {s : State} (hs : BoundsOk s)
    (hidle : s.status.busy = false) : ∃ t, runOp (.host w) s = .next t := by
  cases hcmd : fieldW w && fieldOff w == 0x0C with
  | true =>
    obtain ⟨body, hbody⟩ := exists_command_decodeCommand (fieldData w)
    rw [← decodeHost_cmdWrite hcmd] at hbody
    obtain ⟨t, ht⟩ := hbody.answers hs
    exact ⟨t, (Command.runOp (w := .host w) hbody s).trans (runCommand_answers hidle ht)⟩
  | false =>
    have hreg : accessesRegister (decode (.host w)) = true := accessesRegister_decodeHost hcmd
    cases hd : decode (.host w) with
    | ok i =>
      obtain ⟨-, -, hptr, -⟩ := hs
      rw [runOp_ok hd]
      exact exec_answers_of_idle hptr hidle (hd ▸ hreg)
    | error r =>
      rw [runOp_error hd]
      exact rejectOp_answers (hd ▸ hreg) s

theorem act_host_answers {e : Event} {s : State} (he : e.isHost = true) (hs : BoundsOk s) :
    ∃ t, act e s = .next t := by
  cases hbusy : s.status.busy with
  | true => exact act_host_answers_of_busy he hbusy
  | false =>
    rcases act_isHost he s with ⟨w, -, hact⟩ | ⟨-, write, hact⟩
    · rw [hact]
      exact runOp_host_answers_of_idle w hs hbusy
    · exact ⟨_, hact⟩

/-! ### Transport, timer and engine steps -/

/-- In TX a byte of the request is left to send, and a request fits in FB (R47, R174). -/
theorem txAcceptStep_answers {s : State} (hs : Inv s) : ∃ t, txAcceptStep s = .ok t := by
  by_cases hp : s.phase = .tx
  · obtain ⟨⟨-, -, -, -, -, -, hcap⟩, -, htx, -⟩ := hs
    obtain ⟨hidx, -⟩ := htx hp
    obtain ⟨t, ht, -⟩ := txAcceptStep_tx hp (hidx.trans_le hcap)
    exact ⟨t, ht⟩
  · exact ⟨s, txAcceptStep_of_ne_tx hp⟩

theorem transmitOpcode_answers (b : Byte) {s : State} (hs : Inv s) :
    ∃ t, transmitOpcode b s = .ok t := by
  rcases transmitOpcode_cases b s with ⟨-, -, haccept⟩ | hnone
  · rw [haccept]
    exact txAcceptStep_answers hs
  · exact ⟨s, hnone⟩

/-- Settles O55, event by event. -/
theorem noStepStopsTheMachine : Obligations.NoStepStopsTheMachine := by
  unfold Obligations.NoStepStopsTheMachine
  intro s e hs
  have hbounds : BoundsOk s := hs.1
  cases e with
  | op w =>
    cases w with
    | host w => exact act_host_answers rfl hbounds
    | wire b =>
      rw [act_op, runOp_wire]
      exact toOutcome_answers (transmitOpcode_answers b hs)
  | access a => exact act_host_answers rfl hbounds
  | txAccept => exact toOutcome_answers (txAcceptStep_answers hs)
  | pollTick =>
    obtain ⟨t, ht, -⟩ := hs.pollTick
    exact toOutcome_answers ⟨t, ht⟩
  | arrive | drain | ioFail | reset => exact ⟨_, rfl⟩

end Sys2Proof.Machine
end

section
/-! PROOFS. Reset, and the registers' lock while a TRANSACT runs (70_reset_and_hazards.md R220, R221,
R226). -/

namespace Sys2Proof.Machine

/-! ### Reset -/

theorem ctrlWord_reset : ctrlWord State.reset.ctrl = 0x00000601 := by decide

theorem statusWord_reset : statusWord State.reset.status = 0 := by decide

/-- Settles O7: the engine's fields are those of the reset state, the transport is the old one. -/
theorem resetSetsTheEngineAndKeepsTheTransport :
    Obligations.ResetSetsTheEngineAndKeepsTheTransport := by
  unfold Obligations.ResetSetsTheEngineAndKeepsTheTransport
  intro s
  refine ⟨engineReset s, act_reset s, ctrlWord_reset, statusWord_reset, ?_⟩
  simp [argCount, State.reset]

/-! ### The lock -/

/-- The register writes of a value: every write but CMD's (R104). -/
def registerWrites (data : Word) : List Instr :=
  [.wrCtrl data, .wrOpcode data, .wrAddress data, .wrArgData data, .wrBufPtr data,
    .wrBufData data, .wrBufLen data, .wrCrcData data, .wrTimeoutPolls data, .wrStatusIndex data]

/-- Every register write goes through the lock, whatever it stores. -/
theorem exec_registerWrite_isLocked {i : Instr} {data : Word} (hi : i ∈ registerWrites data) :
    ∃ body, ∀ s, exec i s = lockedWrite body s := by
  simp only [registerWrites, List.mem_cons, List.not_mem_nil, or_false] at hi
  rcases hi with rfl | rfl | rfl | rfl | rfl | rfl | rfl | rfl | rfl | rfl <;>
    exact ⟨_, fun _ => rfl⟩

/-- Settles O15: a locked write only raises ACCESS_FAULT while BUSY. -/
theorem registerWritesAreLockedWhileBusy : Obligations.RegisterWritesAreLockedWhileBusy := by
  unfold Obligations.RegisterWritesAreLockedWhileBusy
  intro s data i hbusy hi
  obtain ⟨body, hlocked⟩ := exec_registerWrite_isLocked hi
  calc exec i s = lockedWrite body s := hlocked s
    _ = .next (raiseAccessFault s) := lockedWrite_busy hbusy

end Sys2Proof.Machine
end
